-- ==== Sys2Proof/Word.lean ====
section
/-!
DEFINITION. The word types of the lightstring core (spec/00_scope.md R4, spec/30_encoding.md R61, R63).
All of them are unsigned bit vectors (R7); bit 0 is the least significant (R6).
-/

namespace Sys2Proof

/-- One 8-bit channel, one byte of `PIX`, or a brightness value (R4). -/
abbrev Byte := BitVec 8

/-- A 16-bit pixel index, fill bound, pixel count or rescale ratio (R4). -/
abbrev Half := BitVec 16

/-- A 32-bit packed colour: [unused/white, red, green, blue], high to low (R42). -/
abbrev Color := BitVec 32

/-- The 96-bit request word `REQ` (R60, R61). -/
abbrev Request := BitVec 96

/-- The 64-bit response word `RSP` (R60, R63). -/
abbrev ResponseWord := BitVec 64

end Sys2Proof
end

