-- ==== Sys2Proof/Syntax.lean ====
section
/-!
DEFINITION. The command set LSC-1 (spec/30_encoding.md R64), the fields of the request and response words
(R61, R63), and the assembler's source lines (R69, R70).
-/

namespace Sys2Proof

/-- The eleven commands, one constructor per row of spec/opcode_table.json (R64).
Operands have the widths of their request fields (R4, R61), so every term is encodable. -/
inductive Instr where
  /-- PACK r, g, b (R82) -/
  | pack (r g b : Byte)
  /-- UNPACK color (R83) -/
  | unpack (color : Color)
  /-- SETPIX index, color (R92) -/
  | setpix (index : Half) (color : Color)
  /-- GETPIX index (R93) -/
  | getpix (index : Half)
  /-- FILL color, first, count (R94) -/
  | fill (color : Color) (first count : Half)
  /-- CLEAR (R96) -/
  | clear
  /-- RESIZE n (R98) -/
  | resize (n : Half)
  /-- LENGTH (R97) -/
  | length
  /-- SETBRI v (R125) -/
  | setbri (v : Byte)
  /-- GETBRI (R126) -/
  | getbri
  /-- RDRAW index (R99) -/
  | rdraw (index : Half)
  deriving DecidableEq, Repr

/-- The fields of a request word (R61): `OP[95:88] P2[87:80] P1[79:72] P0[71:64] CNT[63:48] IDX[47:32] COL[31:0]`. -/
@[ext]
structure Fields where
  op  : Byte
  p2  : Byte
  p1  : Byte
  p0  : Byte
  cnt : Half
  idx : Half
  col : Color
  deriving DecidableEq, Repr

/-- The fields of a response word (R63). A field that a command's rule does not write is 0. -/
@[ext]
structure Response where
  ill  : Bool  := false
  ur   : Byte  := 0
  ug   : Byte  := 0
  ub   : Byte  := 0
  data : Color := 0
  deriving DecidableEq, Repr

/-- The three channels of one entry (R21): red, green, blue. -/
@[ext]
structure Rgb where
  red   : Byte
  green : Byte
  blue  : Byte
  deriving DecidableEq, Repr

/-- One source line of the assembler: the eleven commands with the numbers as they are written (R69), and the three
pseudo-instructions (R70). -/
inductive AsmLine where
  | pack (r g b : Nat)
  | unpack (color : Nat)
  | setpix (index color : Nat)
  | getpix (index : Nat)
  | fill (color first count : Nat)
  | clear
  | resize (n : Nat)
  | length
  | setbri (v : Nat)
  | getbri
  | rdraw (index : Nat)
  /-- `SETRGB index, r, g, b` (R70) -/
  | setrgb (index r g b : Nat)
  /-- `FILLALL color` (R70) -/
  | fillall (color : Nat)
  /-- `FILLFROM color, first` (R70) -/
  | fillfrom (color first : Nat)
  deriving DecidableEq, Repr

end Sys2Proof
end

