-- ==== Sys2Proof/WellFormed.lean ====
section
/-!
DEFINITION. What is well formed: the fields of a legal request (spec/30_encoding.md R64, R67) and an assembler line whose
operands fit their fields (R69). A term of `Instr` needs no check of its own: its operands have exactly their fields' widths.
-/

namespace Sys2Proof

/-- The request's fields spell a command (R64, R67): `OP` is defined, and every must-be-0 field of that opcode is 0.
`COL[31:24]` is never a must-be-0 field where `COL` is used (R67). -/
def Fields.wellFormed (f : Fields) : Bool :=
  match f.op.toNat with
  | 0x01 => f.cnt == 0 && f.idx == 0 && f.col == 0                                          -- PACK
  | 0x02 => f.p2 == 0 && f.p1 == 0 && f.p0 == 0 && f.cnt == 0 && f.idx == 0                 -- UNPACK
  | 0x03 => f.p2 == 0 && f.p1 == 0 && f.p0 == 0 && f.cnt == 0                               -- SETPIX
  | 0x04 => f.p2 == 0 && f.p1 == 0 && f.p0 == 0 && f.cnt == 0 && f.col == 0                 -- GETPIX
  | 0x05 => f.p2 == 0 && f.p1 == 0 && f.p0 == 0                                             -- FILL
  | 0x06 => f.p2 == 0 && f.p1 == 0 && f.p0 == 0 && f.cnt == 0 && f.idx == 0 && f.col == 0   -- CLEAR
  | 0x07 => f.p2 == 0 && f.p1 == 0 && f.p0 == 0 && f.cnt == 0 && f.col == 0                 -- RESIZE
  | 0x08 => f.p2 == 0 && f.p1 == 0 && f.p0 == 0 && f.cnt == 0 && f.idx == 0 && f.col == 0   -- LENGTH
  | 0x09 => f.p2 == 0 && f.p1 == 0 && f.cnt == 0 && f.idx == 0 && f.col == 0                -- SETBRI
  | 0x0A => f.p2 == 0 && f.p1 == 0 && f.p0 == 0 && f.cnt == 0 && f.idx == 0 && f.col == 0   -- GETBRI
  | 0x0B => f.p2 == 0 && f.p1 == 0 && f.p0 == 0 && f.cnt == 0 && f.col == 0                 -- RDRAW
  | _ => false

/-- Every operand fits its field (R69): 8 bits for `r`, `g`, `b`, `v`; 16 for `index`, `first`, `count`, `n`;
32 for `color`. -/
def AsmLine.wellFormed : AsmLine → Bool
  | .pack r g b => r < 2 ^ 8 && g < 2 ^ 8 && b < 2 ^ 8
  | .unpack color => color < 2 ^ 32
  | .setpix index color => index < 2 ^ 16 && color < 2 ^ 32
  | .getpix index => index < 2 ^ 16
  | .fill color first count => color < 2 ^ 32 && first < 2 ^ 16 && count < 2 ^ 16
  | .clear => true
  | .resize n => n < 2 ^ 16
  | .length => true
  | .setbri v => v < 2 ^ 8
  | .getbri => true
  | .rdraw index => index < 2 ^ 16
  | .setrgb index r g b => index < 2 ^ 16 && r < 2 ^ 8 && g < 2 ^ 8 && b < 2 ^ 8
  | .fillall color => color < 2 ^ 32
  | .fillfrom color first => color < 2 ^ 32 && first < 2 ^ 16

end Sys2Proof
end

