-- ==== Sys2Proof/Decode.lean ====
section
/-!
DEFINITION. Decoding and encoding of request words (spec/30_encoding.md R61, R64 to R67).
-/

namespace Sys2Proof

/-- The fields of a request word (R61). -/
def requestFields (w : Request) : Fields where
  op  := w.extractLsb' 88 8
  p2  := w.extractLsb' 80 8
  p1  := w.extractLsb' 72 8
  p0  := w.extractLsb' 64 8
  cnt := w.extractLsb' 48 16
  idx := w.extractLsb' 32 16
  col := w.extractLsb' 0 32

/-- The request word with these fields (R61). -/
def fieldsWord (f : Fields) : Request :=
  f.op ++ f.p2 ++ f.p1 ++ f.p0 ++ f.cnt ++ f.idx ++ f.col

/-- One row of the opcode table: its mnemonic, its match and mask (R65), and the operands its fields carry (R61, R64). -/
structure OpcodeRow where
  mnemonic : String
  code     : Request
  mask     : Request
  operands : Fields → Instr

/-- The opcode table (R64, R65), match and mask as R65 lists them. -/
def opcodeTable : List OpcodeRow :=
  [ ⟨"PACK",   0x010000000000000000000000, 0xFF000000FFFFFFFFFFFFFFFF, fun f => .pack f.p2 f.p1 f.p0⟩,
    ⟨"UNPACK", 0x020000000000000000000000, 0xFFFFFFFFFFFFFFFF00000000, fun f => .unpack f.col⟩,
    ⟨"SETPIX", 0x030000000000000000000000, 0xFFFFFFFFFFFF000000000000, fun f => .setpix f.idx f.col⟩,
    ⟨"GETPIX", 0x040000000000000000000000, 0xFFFFFFFFFFFF0000FFFFFFFF, fun f => .getpix f.idx⟩,
    ⟨"FILL",   0x050000000000000000000000, 0xFFFFFFFF0000000000000000, fun f => .fill f.col f.idx f.cnt⟩,
    ⟨"CLEAR",  0x060000000000000000000000, 0xFFFFFFFFFFFFFFFFFFFFFFFF, fun _ => .clear⟩,
    ⟨"RESIZE", 0x070000000000000000000000, 0xFFFFFFFFFFFF0000FFFFFFFF, fun f => .resize f.idx⟩,
    ⟨"LENGTH", 0x080000000000000000000000, 0xFFFFFFFFFFFFFFFFFFFFFFFF, fun _ => .length⟩,
    ⟨"SETBRI", 0x090000000000000000000000, 0xFFFFFF00FFFFFFFFFFFFFFFF, fun f => .setbri f.p0⟩,
    ⟨"GETBRI", 0x0A0000000000000000000000, 0xFFFFFFFFFFFFFFFFFFFFFFFF, fun _ => .getbri⟩,
    ⟨"RDRAW",  0x0B0000000000000000000000, 0xFFFFFFFFFFFF0000FFFFFFFF, fun f => .rdraw f.idx⟩ ]

/-- The request selects the row: `(REQ & mask) == match` (R66). -/
def OpcodeRow.selects (row : OpcodeRow) (w : Request) : Bool :=
  (w &&& row.mask) == row.code

/-- Why a request word spells no command (R67, R140). Both are the one cause IllegalCommand: the block answers the same
response to each and records neither (R140); the names are for the reader. -/
inductive IllegalCommand where
  /-- `OP` is 0x00 or in 0x0C..0xFF. -/
  | undefinedOpcode (op : Byte)
  /-- `OP` is defined and one of its must-be-0 fields is not 0. -/
  | mustBeZeroField (op : Byte)
  deriving DecidableEq, Repr

/-- The name of an illegal request's cause (R67). -/
def illegalCause (w : Request) : IllegalCommand :=
  if (requestFields w).op = 0x00 ∨ 0x0C ≤ (requestFields w).op then
    .undefinedOpcode (requestFields w).op
  else
    .mustBeZeroField (requestFields w).op

/-- The loop of R66 over the rows of a table: the first row that the request selects, or IllegalCommand. -/
def decodeRows (w : Request) : List OpcodeRow → Except IllegalCommand Instr
  | [] => .error (illegalCause w)
  | row :: rows => if row.selects w then .ok (row.operands (requestFields w)) else decodeRows w rows

/-- The decoder (R66). Total on all 2^96 request words. -/
def decode (w : Request) : Except IllegalCommand Instr :=
  decodeRows w opcodeTable

/-- The fields a command's request carries (R64, R69): every field it does not use is 0. -/
def instrFields : Instr → Fields
  | .pack r g b              => ⟨0x01, r, g, b, 0, 0, 0⟩
  | .unpack color            => ⟨0x02, 0, 0, 0, 0, 0, color⟩
  | .setpix index color      => ⟨0x03, 0, 0, 0, 0, index, color⟩
  | .getpix index            => ⟨0x04, 0, 0, 0, 0, index, 0⟩
  | .fill color first count  => ⟨0x05, 0, 0, 0, count, first, color⟩
  | .clear                   => ⟨0x06, 0, 0, 0, 0, 0, 0⟩
  | .resize n                => ⟨0x07, 0, 0, 0, 0, n, 0⟩
  | .length                  => ⟨0x08, 0, 0, 0, 0, 0, 0⟩
  | .setbri v                => ⟨0x09, 0, 0, v, 0, 0, 0⟩
  | .getbri                  => ⟨0x0A, 0, 0, 0, 0, 0, 0⟩
  | .rdraw index             => ⟨0x0B, 0, 0, 0, 0, index, 0⟩

/-- The encoder (R61, R64): a command's 96-bit request word. -/
def encode (i : Instr) : Request :=
  fieldsWord (instrFields i)

/-- The request word that a table word of `nbits` bits stands for: a request is exactly 96 bits (R68), the table numbers
its bits as R61 does, and bits above `nbits` are 0. -/
def tableRequest (nbits w : Nat) : Request :=
  BitVec.ofNat 96 (w % 2 ^ nbits)

/-- The command that the decoder reads from a table word; none where it refuses, or where the word is longer than a
request (R68). -/
def decodeTableWord (nbits w : Nat) : Option Instr :=
  if w % 2 ^ nbits < 2 ^ 96 then (decode (tableRequest nbits w)).toOption else none

end Sys2Proof
end

