-- ==== Sys2Proof/Machine/Flags.lean ====
section
/-!
DEFINITION. Status. The block has no flags, condition codes or status register (spec/10_state.md R27); the only status
bit is `ILL` of each response word, which is not state. This file lays out the response word (spec/30_encoding.md R63).
-/

namespace Sys2Proof.Machine

/-- The response word `RSP` (R63): `0[63:57] ILL[56] UR[55:48] UG[47:40] UB[39:32] DATA[31:0]`. -/
def responseWord (r : Response) : ResponseWord :=
  0#7 ++ BitVec.ofBool r.ill ++ r.ur ++ r.ug ++ r.ub ++ r.data

/-- The response of a command whose rule writes no response field: every field 0 (R63). -/
def emptyResponse : Response := {}

/-- The response of PACK, GETPIX, RDRAW, LENGTH and GETBRI: `DATA` alone is written (R63). -/
def dataResponse (d : Color) : Response := { data := d }

/-- The response of UNPACK: `UR`, `UG`, `UB` are written (R63, R83). -/
def channelsResponse (x : Rgb) : Response := { ur := x.red, ug := x.green, ub := x.blue }

/-- The response of an illegal request: `ILL = 1`, every other field 0 (R141). -/
def illegalResponse : Response := { ill := true }

end Sys2Proof.Machine
end

