-- ==== Sys2Proof/Config.lean ====
section
/-!
DEFINITION. The implementation parameters of the spec (spec/00_scope.md R3), which it leaves OPEN (D9, D11).
They have no body: nothing about the block after reset can rest on a value of theirs.
-/

namespace Sys2Proof

/-- The parameters of one block instance, fixed for its life (R3). Both range over 0..65535. -/
structure Params where
  /-- `MAX_PIXELS`: the capacity of the pixel memory in entries (R3, D9). -/
  maxPixels : Fin 65536
  /-- `INIT_LEN`: the pixel count at reset (R3, D11). -/
  initLen   : Fin 65536
  deriving DecidableEq, Repr

/-- The open value of `MAX_PIXELS` (R3): any value in 0..65535. -/
opaque Config.maxPixels : Fin 65536

/-- The open value of `INIT_LEN` (R3): any value in 0..65535. -/
opaque Config.initLen : Fin 65536

/-- The parameters of the block that `State.reset` describes. -/
def Config.params : Params := ⟨Config.maxPixels, Config.initLen⟩

end Sys2Proof
end

