-- ==== Sys2Proof/Machine/Operands.lean ====
section
/-!
DEFINITION. The operand forms and the arithmetic of the commands: the colour codec (spec/40_codec.md R80, R81), the write
scale and read inversion (spec/41_pixel_buffer.md R90, R91), entry addresses (spec/10_state.md R21), the clipped range of
FILL (R94), the brightness bias and the rescale (spec/42_brightness.md R120 to R124).
Every value is computed exactly on natural numbers and narrowed once at the end (R7, R128).
-/

namespace Sys2Proof.Machine

/-! ### The colour codec -/

/-- `pack(r, g, b)` (R80): `(r << 16) | (g << 8) | b`, bits 31:24 zero. -/
def packColor (x : Rgb) : Color :=
  (x.red.setWidth 32 <<< 16) ||| (x.green.setWidth 32 <<< 8) ||| x.blue.setWidth 32

/-- `unpack(c)` (R81): `(c[23:16], c[15:8], c[7:0])`; `c[31:24]` is discarded. -/
def unpackColor (c : Color) : Rgb :=
  ⟨c.extractLsb' 16 8, c.extractLsb' 8 8, c.extractLsb' 0 8⟩

/-- The same function on each channel: no operation moves a value between lanes (R85). -/
def mapChannels (f : Byte → Byte) (x : Rgb) : Rgb :=
  ⟨f x.red, f x.green, f x.blue⟩

/-! ### Write scale and read inversion -/

/-- `wscale(ch, s)` (R90): the byte a write stores for channel `ch` at stored brightness `s`. -/
def wscale (ch s : Byte) : Byte :=
  if s = 0 then ch else BitVec.ofNat 8 (ch.toNat * s.toNat / 2 ^ 8)

/-- `rscale(p, s)` (R91): the channel a read returns for stored byte `p` at stored brightness `s`; floor division, low
8 bits (D14). -/
def rscale (p s : Byte) : Byte :=
  if s = 0 then p else BitVec.ofNat 8 (p.toNat * 2 ^ 8 / s.toNat)

/-! ### Entries and ranges -/

/-- The byte address of entry `i`'s red channel (R21); green and blue follow at the next two addresses. -/
def entryAddr (i : Nat) : Nat := 3 * i

/-- `end` of FILL (R94): `LEN` where `count` is 0, else the exact sum `first + count` clipped to `LEN` (D12). -/
def fillEnd (first count len : Half) : Nat :=
  if count = 0 then len.toNat else min (first.toNat + count.toNat) len.toNat

/-- The logical length that an allocation of `n` entries leaves (R98, R32): `n`, or 0 where `n > MAX_PIXELS` (D10). -/
def allocLen (p : Params) (n : Half) : Half :=
  if n.toNat ≤ p.maxPixels.val then n else 0

/-! ### Brightness -/

/-- `stored(v) = (v + 1) mod 256` (R120). -/
def storedBrightness (v : Byte) : Byte := v + 1

/-- `requested(s) = (s - 1) mod 256` (R120); of the current `BRT` it is the de-biased old value `old` (R121). -/
def requestedBrightness (s : Byte) : Byte := s - 1

/-- `ratio(cur, v)` (R123). The branches are tried in the rule's order, so `old == 0` wins over `v == 255`. -/
def rescaleRatio (cur v : Byte) : Half :=
  let old := requestedBrightness cur
  let new := storedBrightness v
  if old = 0 then 0
  else if v = 255 then BitVec.ofNat 16 (65535 / old.toNat)
  else BitVec.ofNat 16 ((new.toNat * 2 ^ 8 - 1) / old.toNat)

/-- `resc(p, k)` (R124): the low 8 bits of `(p * k) >> 8` (D13). -/
def rescaleByte (k : Half) (p : Byte) : Byte :=
  BitVec.ofNat 8 (p.toNat * k.toNat / 2 ^ 8)

end Sys2Proof.Machine
end

