-- ==== Sys2Proof/Machine/State.lean ====
section
/-!
DEFINITION. The state of the block (spec/10_state.md R20), the host's side of its ports (spec/60_exceptions.md R150), the
reasons a step can stop, and the state after reset (R32, spec/70_reset_and_hazards.md R160).
-/

namespace Sys2Proof.Machine

/-- The live bytes of `PIX` (R21, R22) as (byte address, byte) pairs: addresses strictly rising, no byte 0 listed
(`Memory.wf`). A live byte that is not listed is 0; a dead byte (address `>= 3*LEN`) has no value and is omitted (D24). -/
abbrev Memory := List Host.Cell

/-- What the host does at the block's ports, in the order it does it (R150, R160, R161). -/
inductive HostInput where
  /-- A request word is presented and, unless reset is asserted, taken and served to its response. -/
  | request (w : Request)
  /-- A request word is presented, and reset is asserted while its command is in progress (R161). -/
  | requestCutByReset (w : Request)
  /-- The reset input is asserted while no command is in progress (R160). -/
  | assertReset
  /-- The reset input is released (R163). -/
  | releaseReset
  /-- The block loses power and is powered up again (R155, R160). -/
  | powerCycle
  deriving DecidableEq, Repr

/-- The machine. `pix`, `len` and `brt` are the architectural state, and all of it (R20). `params` is configuration: the
spec makes it an argument of the model (R3), and the state is where a step finds it. `inReset`, `inputs` and `responses`
are the model's own: the level of the reset input and the traffic at the two ports, which the spec says are not state. -/
structure State where
  /-- `MAX_PIXELS` and `INIT_LEN` (R3); no step changes them. -/
  params    : Params
  /-- `PIX` (R21). -/
  pix       : Memory
  /-- `LEN` (R23). -/
  len       : Half
  /-- `BRT`, the stored (biased) brightness (R24). -/
  brt       : Byte
  /-- Whether the reset input is asserted (R160, R161). -/
  inReset   : Bool
  /-- What the host is still to do, first to last (R50, R150). -/
  inputs    : List HostInput
  /-- The responses returned so far, first to last (R50, R166). -/
  responses : List ResponseWord
  deriving DecidableEq, Repr

/-- The block has no fault: its one exception, IllegalCommand, is a defined outcome and not a fault of the model
(R141, R142). So this type has no constructor, and that is neither safe nor unsafe: there is nothing to raise. -/
inductive Fault where
  deriving DecidableEq, Repr

/-- Why the model refuses an instruction. -/
inductive Refusal where
  /-- Raised by an arm of `exec` whose instruction has no meaning yet. Safe: no claim about that instruction can be
  proved. No arm raises it now. -/
  | notModelled (mnemonic : String)
  deriving DecidableEq, Repr

/-- What taking one host input leaves to do. -/
inductive Taken where
  /-- The input is dealt with; `s` is the state after it. -/
  | settled (s : State)
  /-- The block has taken request `w`, to be served in state `s`. -/
  | command (w : Request) (s : State)
  deriving DecidableEq, Repr

/-- The block right after power-up with parameters `p` (R32, R160): `BRT` is 0, `LEN` is `INIT_LEN` or 0 where it is
above `MAX_PIXELS`, every live byte is 0; the host has done nothing yet. -/
def State.powerUp (p : Params) : State where
  params    := p
  pix       := []
  len       := allocLen p (BitVec.ofFin p.initLen)
  brt       := 0
  inReset   := false
  inputs    := []
  responses := []

/-- The machine right after reset (R32, R160), for the open parameters of `Config`. -/
def State.reset : State := State.powerUp Config.params

end Sys2Proof.Machine
end

