-- ==== Sys2Proof/Machine/Ops.lean ====
section
/-!
DEFINITION. The named operations over the pixel memory, the registers and the ports; rejecting an illegal request
(spec/60_exceptions.md R141); reset (spec/70_reset_and_hazards.md R160, R161).
There is no return from an exception to model: no trap is entered and there is nothing to restore (R145, R146).
-/

namespace Sys2Proof.Machine

/-! ### The pixel memory -/

/-- What an unlisted byte reads as: 0, the value reset and RESIZE give every live byte (R32, R98). -/
def Memory.unlisted : Byte := 0

/-- The canonical form: addresses strictly rising, and no entry equal to what an unlisted byte reads as. -/
abbrev Memory.wf (m : Memory) : Prop :=
  m.Pairwise (fun x y => x.1 < y.1) ∧ ∀ c ∈ m, c.2 ≠ Memory.unlisted

/-- `PIX[a]` (R8): read one byte. -/
def Memory.read : Memory → Nat → Byte
  | [], _ => Memory.unlisted
  | (b, v) :: m, a => if a = b then v else Memory.read m a

/-- Put a cell before the cells of `m` unless its byte is what an unlisted one reads as. -/
def Memory.consCell (a : Nat) (v : Byte) (m : Memory) : Memory :=
  if v = Memory.unlisted then m else (a, v) :: m

/-- `PIX[a] <- v` (R8): write one byte. -/
def Memory.write : Memory → Nat → Byte → Memory
  | [], a, v => Memory.consCell a v []
  | (b, u) :: m, a, v =>
    if a < b then Memory.consCell a v ((b, u) :: m)
    else if a = b then Memory.consCell a v m
    else (b, u) :: Memory.write m a v

/-- The three bytes of entry `i`: red at `3i`, green at `3i+1`, blue at `3i+2` (R21, R43). -/
def Memory.readEntry (m : Memory) (i : Nat) : Rgb :=
  ⟨Memory.read m (entryAddr i), Memory.read m (entryAddr i + 1), Memory.read m (entryAddr i + 2)⟩

/-- Write the three bytes of entry `i` (R21, R43). -/
def Memory.writeEntry (m : Memory) (i : Nat) (x : Rgb) : Memory :=
  Memory.write (Memory.write (Memory.write m (entryAddr i) x.red) (entryAddr i + 1) x.green) (entryAddr i + 2) x.blue

/-- Write the same three bytes to the `n` entries from `first` on (R94); the order of the writes is not observable (D30). -/
def Memory.writeEntries (m : Memory) (first : Nat) (n : Nat) (x : Rgb) : Memory :=
  match n with
  | 0 => m
  | n + 1 => Memory.writeEntry (Memory.writeEntries m (first + 1) n x) first x

/-- Write 0 to every byte below `bound` (R96). -/
def Memory.zeroBelow (m : Memory) (bound : Nat) : Memory :=
  m.filter (fun c => bound ≤ c.1)

/-- Apply `f`, which maps 0 to 0, to every byte below `bound` (R125): each byte alone (R129). -/
def Memory.mapBelow (f : Byte → Byte) (bound : Nat) : Memory → Memory
  | [] => []
  | (a, v) :: m =>
    if a < bound then Memory.consCell a (f v) (Memory.mapBelow f bound m)
    else (a, v) :: Memory.mapBelow f bound m

/-! ### Registers and ports -/

/-- Write the pixel memory. -/
def State.setPix (s : State) (m : Memory) : State := { s with pix := m }

/-- `LEN <- n` (R8, R23). -/
def State.setLen (s : State) (n : Half) : State := { s with len := n }

/-- `BRT <- b` (R8, R24). -/
def State.setBrt (s : State) (b : Byte) : State := { s with brt := b }

/-- The level of the reset input (R160). -/
def State.setInReset (s : State) (b : Bool) : State := { s with inReset := b }

/-- What the host is still to do. -/
def State.setInputs (s : State) (l : List HostInput) : State := { s with inputs := l }

/-- Return one response (R50, R60): it comes after every earlier one. -/
def State.respond (s : State) (r : Response) : State :=
  { s with responses := s.responses ++ [responseWord r] }

/-- The number of live bytes, `3*LEN` (R22). -/
def State.liveBytes (s : State) : Nat := 3 * s.len.toNat

/-- One live byte of `PIX`, or none: a byte at an address `>= 3*LEN` holds no defined value (R22). -/
def State.liveByte (s : State) (a : Nat) : Option Byte :=
  if a < s.liveBytes then some (Memory.read s.pix a) else none

/-! ### What the pixel commands share -/

/-- The colour written to `PIX` for packed colour `c`: its channels, each scaled by the stored brightness (R81, R90). -/
def State.scaledColor (s : State) (c : Color) : Rgb :=
  mapChannels (fun ch => wscale ch s.brt) (unpackColor c)

/-- The write of SETPIX (R92): entry `i` gets the scaled colour, or nothing happens where `i >= LEN`. -/
def State.writePixel (s : State) (i : Half) (c : Color) : State :=
  if i < s.len then s.setPix (Memory.writeEntry s.pix i.toNat (s.scaledColor c)) else s

/-- The write of FILL (R94): the entries `[first, end)` get the scaled colour, or nothing happens where `first >= LEN`. -/
def State.fillPixels (s : State) (c : Color) (first count : Half) : State :=
  if first < s.len then
    s.setPix (Memory.writeEntries s.pix first.toNat (fillEnd first count s.len - first.toNat) (s.scaledColor c))
  else s

/-- A read of entry `i` through `f` on each channel (R93, R99): packed, or 0 (black) where `i >= LEN`. -/
def State.readPixel (s : State) (f : Byte → Byte) (i : Half) : Color :=
  if i < s.len then packColor (mapChannels f (Memory.readEntry s.pix i.toNat)) else 0

/-- A fresh allocation of `n` entries (R98): the length it leaves, and every live byte 0. The bytes above are dead and
have no value (R22). -/
def State.allocate (s : State) (n : Half) : State :=
  (s.setLen (allocLen s.params n)).setPix []

/-- The rescale of SETBRI (R125): nothing where the stored value is already the current one (R122); else every live
byte by the one ratio computed from the old `BRT`, and then `BRT`. -/
def State.rescale (s : State) (v : Byte) : State :=
  if storedBrightness v = s.brt then s
  else
    (s.setPix (Memory.mapBelow (rescaleByte (rescaleRatio s.brt v)) s.liveBytes s.pix)).setBrt (storedBrightness v)

/-! ### The exception and reset -/

/-- IllegalCommand (R141): no write to `PIX`, `LEN` or `BRT`; the response has `ILL = 1` and every other field 0; the
block goes on to the next request. Nothing is saved, no mode changes, control goes nowhere (R145). -/
def State.rejectIllegal (s : State) : State := s.respond illegalResponse

/-- The state that reset leaves (R32, R160): the allocation of `INIT_LEN` entries with `BRT` 0. -/
def State.resetBlock (s : State) : State :=
  (s.allocate (BitVec.ofFin s.params.initLen)).setBrt 0

/-- Take the host's next input (R150). With none, the block waits. A request presented while reset is asserted is not
taken and gets no response; a command cut by reset is abandoned without response (R161). -/
def State.takeInput (s : State) : Taken :=
  match s.inputs with
  | [] => .settled s
  | .request w :: rest => if s.inReset then .settled (s.setInputs rest) else .command w (s.setInputs rest)
  | .requestCutByReset _ :: rest => .settled (((s.setInputs rest).setInReset true).resetBlock)
  | .assertReset :: rest => .settled (((s.setInputs rest).setInReset true).resetBlock)
  | .releaseReset :: rest => .settled ((s.setInputs rest).setInReset false)
  | .powerCycle :: rest => .settled ((s.setInputs rest).resetBlock)

/-- `s` with request `w` as the host's next input and the reset input released, so that the next step serves it. -/
def State.present (s : State) (w : Request) : State :=
  (s.setInputs (.request w :: s.inputs)).setInReset false

end Sys2Proof.Machine
end

