-- ==== Sys2Proof/Machine/Brightness.lean ====
section
/-!
DEFINITION. The brightness scaler commands SETBRI and GETBRI (spec/42_brightness.md R125, R126).
-/

namespace Sys2Proof.Machine

/-- SETBRI (R125): set the brightness and rescale every live byte in place. -/
def execSetbri (v : Byte) (s : State) : Host.Outcome State Fault Refusal :=
  .next ((s.rescale v).respond emptyResponse)

/-- GETBRI (R126): `RSP.DATA <- zext_32((BRT - 1) mod 256)`. -/
def execGetbri (s : State) : Host.Outcome State Fault Refusal :=
  .next (s.respond (dataResponse ((requestedBrightness s.brt).setWidth 32)))

end Sys2Proof.Machine
end

