-- ==== Sys2Proof/Machine/Codec.lean ====
section
/-!
DEFINITION. The colour codec commands PACK and UNPACK (spec/40_codec.md R82, R83). They read and write no state.
-/

namespace Sys2Proof.Machine

/-- PACK (R82): `RSP.DATA <- pack(r, g, b)`. -/
def execPack (r g b : Byte) (s : State) : Host.Outcome State Fault Refusal :=
  .next (s.respond (dataResponse (packColor ⟨r, g, b⟩)))

/-- UNPACK (R83): `RSP.UR, RSP.UG, RSP.UB <- unpack(c)`; the top byte of `c` has no effect. -/
def execUnpack (c : Color) (s : State) : Host.Outcome State Fault Refusal :=
  .next (s.respond (channelsResponse (unpackColor c)))

end Sys2Proof.Machine
end

