-- ==== Sys2Proof/Machine/Pixel.lean ====
section
/-!
DEFINITION. The pixel buffer commands (spec/41_pixel_buffer.md R92 to R99). None of them writes `BRT`, and none of them
raises an exception (R142).
-/

namespace Sys2Proof.Machine

/-- SETPIX (R92). -/
def execSetpix (i : Half) (c : Color) (s : State) : Host.Outcome State Fault Refusal :=
  .next ((s.writePixel i c).respond emptyResponse)

/-- GETPIX (R93): the stored bytes with the brightness inverted (R91). -/
def execGetpix (i : Half) (s : State) : Host.Outcome State Fault Refusal :=
  .next (s.respond (dataResponse (s.readPixel (fun p => rscale p s.brt) i)))

/-- FILL (R94). -/
def execFill (c : Color) (first count : Half) (s : State) : Host.Outcome State Fault Refusal :=
  .next ((s.fillPixels c first count).respond emptyResponse)

/-- CLEAR (R96): every live byte 0, whatever the brightness. -/
def execClear (s : State) : Host.Outcome State Fault Refusal :=
  .next ((s.setPix (Memory.zeroBelow s.pix s.liveBytes)).respond emptyResponse)

/-- LENGTH (R97): `RSP.DATA <- zext_32(LEN)`. -/
def execLength (s : State) : Host.Outcome State Fault Refusal :=
  .next (s.respond (dataResponse (s.len.setWidth 32)))

/-- RESIZE (R98): `BRT` is kept. -/
def execResize (n : Half) (s : State) : Host.Outcome State Fault Refusal :=
  .next ((s.allocate n).respond emptyResponse)

/-- RDRAW (R99): the stored bytes as the display sees them, without inversion. -/
def execRdraw (i : Half) (s : State) : Host.Outcome State Fault Refusal :=
  .next (s.respond (dataResponse (s.readPixel (fun p => p) i)))

end Sys2Proof.Machine
end

