-- ==== Sys2Proof/Machine/Dispatch.lean ====
section
/-! DEFINITION. Dispatch of a decoded command to its meaning, one arm per row of the opcode table (spec/30_encoding.md R64). -/

namespace Sys2Proof.Machine

def exec (i : Instr) (s : State) : Host.Outcome State Fault Refusal :=
  match i with
  | .pack r g b => Sys2Proof.Machine.execPack r g b s
  | .unpack c => Sys2Proof.Machine.execUnpack c s
  | .setpix n c => Sys2Proof.Machine.execSetpix n c s
  | .getpix n => Sys2Proof.Machine.execGetpix n s
  | .fill c first count => Sys2Proof.Machine.execFill c first count s
  | .clear => Sys2Proof.Machine.execClear s
  | .resize n => Sys2Proof.Machine.execResize n s
  | .length => Sys2Proof.Machine.execLength s
  | .setbri v => Sys2Proof.Machine.execSetbri v s
  | .getbri => Sys2Proof.Machine.execGetbri s
  | .rdraw n => Sys2Proof.Machine.execRdraw n s

end Sys2Proof.Machine
end

