-- ==== Sys2Proof/Machine/Step.lean ====
section
/-!
DEFINITION. One step: the block takes the host's next input and deals with it to the end (spec/00_scope.md R9,
spec/20_memory.md R50). A request is decoded (R66) and either executed or rejected (R141), never both (R144).
-/

namespace Sys2Proof.Machine

/-- One step of the machine. -/
def step (s : State) : Host.Outcome State Fault Refusal :=
  match s.takeInput with
  | .settled t => .next t
  | .command w t =>
    match decode w with
    | .ok i => exec i t
    | .error _ => .next t.rejectIllegal

/-- `s` with the table word as the request its next step serves. The block has no program: the host presents each
request (R26, R150), so this puts it first among the host's inputs and releases the reset input. -/
def State.withFetchWord (s : State) (nbits w : Nat) : State := s.present (tableRequest nbits w)

end Sys2Proof.Machine
end

