-- ==== Sys2Proof/Machine/Assembler.lean ====
section
/-!
DEFINITION. The assembler of spec/30_encoding.md R69 and R70: one command per line, `;` to the end of the line a comment,
numbers decimal or `0x` hexadecimal, operands in the order of the source's argument lists, and the pseudo-instructions.
It is no part of the block: it spells requests for the host. A line is read as a list of characters.
-/

namespace Sys2Proof.Machine

/-- Why the assembler refuses a line (R69). -/
inductive AsmError where
  /-- The line is not one of the forms of R69 or R70. -/
  | notACommand
  /-- An operand does not fit its field. -/
  | operandTooWide
  deriving DecidableEq, Repr

/-- The command an assembler line stands for (R69, R70), its operands taken modulo their fields' widths.
SETRGB is SETPIX of `(r << 16) | (g << 8) | b`; FILLALL and FILLFROM are FILL with `count` 0. -/
def expandLine : AsmLine → Instr
  | .pack r g b => .pack (BitVec.ofNat 8 r) (BitVec.ofNat 8 g) (BitVec.ofNat 8 b)
  | .unpack color => .unpack (BitVec.ofNat 32 color)
  | .setpix index color => .setpix (BitVec.ofNat 16 index) (BitVec.ofNat 32 color)
  | .getpix index => .getpix (BitVec.ofNat 16 index)
  | .fill color first count => .fill (BitVec.ofNat 32 color) (BitVec.ofNat 16 first) (BitVec.ofNat 16 count)
  | .clear => .clear
  | .resize n => .resize (BitVec.ofNat 16 n)
  | .length => .length
  | .setbri v => .setbri (BitVec.ofNat 8 v)
  | .getbri => .getbri
  | .rdraw index => .rdraw (BitVec.ofNat 16 index)
  | .setrgb index r g b => .setpix (BitVec.ofNat 16 index) (BitVec.ofNat 32 ((r <<< 16) ||| (g <<< 8) ||| b))
  | .fillall color => .fill (BitVec.ofNat 32 color) 0 0
  | .fillfrom color first => .fill (BitVec.ofNat 32 color) (BitVec.ofNat 16 first) 0

/-- Assemble one line: an operand that does not fit its field is refused (R69). -/
def assemble (l : AsmLine) : Except AsmError Instr :=
  if l.wellFormed then .ok (expandLine l) else .error .operandTooWide

/-! ### Reading a line of characters -/

/-- White space between the parts of a line. -/
def isBlank (c : Char) : Bool := c == ' ' || c == '\t' || c == '\r'

/-- Drop the white space at both ends. -/
def trimBlank (l : List Char) : List Char :=
  ((l.dropWhile isBlank).reverse.dropWhile isBlank).reverse

/-- The value of a hexadecimal digit of either case; a decimal digit is one below 10. -/
def digitValue (c : Char) : Option Nat :=
  if '0' ≤ c ∧ c ≤ '9' then some (c.toNat - '0'.toNat)
  else if 'a' ≤ c ∧ c ≤ 'f' then some (c.toNat - 'a'.toNat + 10)
  else if 'A' ≤ c ∧ c ≤ 'F' then some (c.toNat - 'A'.toNat + 10)
  else none

/-- Read digits in the given base after the value `acc`. -/
def readDigits (base : Nat) : Nat → List Char → Option Nat
  | acc, [] => some acc
  | acc, c :: cs =>
    match digitValue c with
    | some d => if d < base then readDigits base (acc * base + d) cs else none
    | none => none

/-- A number, decimal or `0x` hexadecimal (R69), of at least one digit. -/
def readNumber (l : List Char) : Option Nat :=
  match trimBlank l with
  | [] => none
  | ['0', 'x'] => none
  | '0' :: 'x' :: digits => readDigits 16 0 digits
  | digits => readDigits 10 0 digits

/-- Split at every comma. -/
def splitCommas : List Char → List (List Char)
  | [] => [[]]
  | c :: cs =>
    match splitCommas cs with
    | [] => [[c]]
    | part :: parts => if c = ',' then [] :: part :: parts else (c :: part) :: parts

/-- The operands of a line: none, or numbers with commas between them. -/
def readOperands (l : List Char) : Option (List Nat) :=
  if (trimBlank l).isEmpty then some [] else (splitCommas l).mapM readNumber

/-- The line that a mnemonic and its operands spell (R69, R70). -/
def lineOf (mnemonic : List Char) (operands : List Nat) : Option AsmLine :=
  match mnemonic, operands with
  | ['P', 'A', 'C', 'K'], [r, g, b] => some (.pack r g b)
  | ['U', 'N', 'P', 'A', 'C', 'K'], [color] => some (.unpack color)
  | ['S', 'E', 'T', 'P', 'I', 'X'], [index, color] => some (.setpix index color)
  | ['G', 'E', 'T', 'P', 'I', 'X'], [index] => some (.getpix index)
  | ['F', 'I', 'L', 'L'], [color, first, count] => some (.fill color first count)
  | ['C', 'L', 'E', 'A', 'R'], [] => some .clear
  | ['R', 'E', 'S', 'I', 'Z', 'E'], [n] => some (.resize n)
  | ['L', 'E', 'N', 'G', 'T', 'H'], [] => some .length
  | ['S', 'E', 'T', 'B', 'R', 'I'], [v] => some (.setbri v)
  | ['G', 'E', 'T', 'B', 'R', 'I'], [] => some .getbri
  | ['R', 'D', 'R', 'A', 'W'], [index] => some (.rdraw index)
  | ['S', 'E', 'T', 'R', 'G', 'B'], [index, r, g, b] => some (.setrgb index r g b)
  | ['F', 'I', 'L', 'L', 'A', 'L', 'L'], [color] => some (.fillall color)
  | ['F', 'I', 'L', 'L', 'F', 'R', 'O', 'M'], [color, first] => some (.fillfrom color first)
  | _, _ => none

/-- Assemble one line of text (R69): none where it holds no command, only white space or a comment. -/
def assembleText (text : List Char) : Except AsmError (Option Instr) :=
  let body := trimBlank (text.takeWhile (fun c => c != ';'))
  if body.isEmpty then .ok none
  else
    match readOperands (body.dropWhile (fun c => !isBlank c)) with
    | none => .error .notACommand
    | some operands =>
      match lineOf (body.takeWhile (fun c => !isBlank c)) operands with
      | none => .error .notACommand
      | some line => (assemble line).map some

end Sys2Proof.Machine
end

