-- ==== Sys2Proof/Safety.lean ====
section
/-!
DEFINITION. The terms that claims about the machine use: its invariant (spec/10_state.md R23, R30), what a host can
observe, and runs (spec/70_reset_and_hazards.md R166).
-/

namespace Sys2Proof.Machine

/-- No live byte is above `BRT - 1` while a brightness is set (R30). -/
def State.BytesWithinBrightness (s : State) : Prop :=
  s.brt ≠ 0 → ∀ a < s.liveBytes, (Memory.read s.pix a).toNat ≤ s.brt.toNat - 1

/-- The invariant of every state that a run reaches: `LEN <= MAX_PIXELS` (R23); the pixel memory has its canonical form
and lists live bytes only (R22); no live byte is above `BRT - 1` while a brightness is set (R30); while the reset input is
asserted the state is the reset state (R160). -/
structure State.Inv (s : State) : Prop where
  lenLe     : s.len.toNat ≤ s.params.maxPixels.val
  pixWf     : Memory.wf s.pix
  pixLive   : ∀ c ∈ s.pix, c.1 < s.liveBytes
  bytes     : s.BytesWithinBrightness
  heldReset : s.inReset = true → s.pix = [] ∧ s.brt = 0 ∧ s.len = allocLen s.params (BitVec.ofFin s.params.initLen)

/-- Two states that a host cannot tell apart by what the block holds: the same parameters, `LEN`, `BRT` and live bytes.
The dead bytes may differ (R22). -/
structure SameLive (s t : State) : Prop where
  params : s.params = t.params
  len    : s.len = t.len
  brt    : s.brt = t.brt
  bytes  : ∀ a < s.liveBytes, Memory.read s.pix a = Memory.read t.pix a

/-- The architectural state is the same (R20): `PIX`, `LEN`, `BRT`. -/
structure SameArch (s t : State) : Prop where
  pix : s.pix = t.pix
  len : s.len = t.len
  brt : s.brt = t.brt

/-- Everything but the pixel memory, the two registers and the responses is the same. -/
structure SamePorts (s t : State) : Prop where
  params  : s.params = t.params
  inReset : s.inReset = t.inReset
  inputs  : s.inputs = t.inputs

/-- The commands in order, each run in the state the one before left; the state after the last, or none where one stops. -/
def execAll : List Instr → State → Option State
  | [], s => some s
  | i :: l, s =>
    match exec i s with
    | .next t => execAll l t
    | _ => none

end Sys2Proof.Machine
end

