-- ==== Sys2Proof/Certificates/Slice0/Obligations.lean ====
section
/-!
DEFINITION. The statements for the provers, each with the rule of spec/ it formalises.
-/

open Sys2Proof Sys2Proof.Machine

/-! ### Encoding and decoding -/

/-- Decoding a command's request word gives the command back, with every operand at every value (R61, R64 to R66). -/
def Obligations.DecodeOfEncodeIsTheCommand : Prop :=
  ∀ i : Instr, decode (encode i) = .ok i

/-- A request that decodes to a command is that command's one request word: no legal bit is dropped (R64, R66). -/
def Obligations.EncodeOfDecodeIsTheRequest : Prop :=
  ∀ (w : Request) (i : Instr), decode w = .ok i → encode i = w

/-- R66: a row that a request selects gives its command, so at most one row matches; where none matches, the request is
illegal. -/
def Obligations.DecodeFollowsTheMatchingRow : Prop :=
  ∀ w : Request,
    (∀ row ∈ opcodeTable, w &&& row.mask = row.code → decode w = .ok (row.operands (requestFields w))) ∧
    ((∀ row ∈ opcodeTable, w &&& row.mask ≠ row.code) → ∃ e, decode w = .error e)

/-- R67: the illegal encodings are exactly an undefined `OP` and a nonzero must-be-0 field, and every illegal request is
rejected without any change of the state. -/
def Obligations.IllegalRequestsAreExactlyTheUndefined : Prop :=
  (∀ w : Request,
    let op : Byte := w.extractLsb' 88 8
    let p2 : Byte := w.extractLsb' 80 8
    let p1 : Byte := w.extractLsb' 72 8
    let p0 : Byte := w.extractLsb' 64 8
    let cnt : Half := w.extractLsb' 48 16
    let idx : Half := w.extractLsb' 32 16
    let col : Color := w.extractLsb' 0 32
    (∃ e, decode w = .error e) ↔
      op = 0x00 ∨ 0x0C ≤ op ∨
      op = 0x01 ∧ ¬(cnt = 0 ∧ idx = 0 ∧ col = 0) ∨
      op = 0x02 ∧ ¬(p2 = 0 ∧ p1 = 0 ∧ p0 = 0 ∧ cnt = 0 ∧ idx = 0) ∨
      op = 0x03 ∧ ¬(p2 = 0 ∧ p1 = 0 ∧ p0 = 0 ∧ cnt = 0) ∨
      op = 0x04 ∧ ¬(p2 = 0 ∧ p1 = 0 ∧ p0 = 0 ∧ cnt = 0 ∧ col = 0) ∨
      op = 0x05 ∧ ¬(p2 = 0 ∧ p1 = 0 ∧ p0 = 0) ∨
      op = 0x06 ∧ ¬(p2 = 0 ∧ p1 = 0 ∧ p0 = 0 ∧ cnt = 0 ∧ idx = 0 ∧ col = 0) ∨
      op = 0x07 ∧ ¬(p2 = 0 ∧ p1 = 0 ∧ p0 = 0 ∧ cnt = 0 ∧ col = 0) ∨
      op = 0x08 ∧ ¬(p2 = 0 ∧ p1 = 0 ∧ p0 = 0 ∧ cnt = 0 ∧ idx = 0 ∧ col = 0) ∨
      op = 0x09 ∧ ¬(p2 = 0 ∧ p1 = 0 ∧ cnt = 0 ∧ idx = 0 ∧ col = 0) ∨
      op = 0x0A ∧ ¬(p2 = 0 ∧ p1 = 0 ∧ p0 = 0 ∧ cnt = 0 ∧ idx = 0 ∧ col = 0) ∨
      op = 0x0B ∧ ¬(p2 = 0 ∧ p1 = 0 ∧ p0 = 0 ∧ cnt = 0 ∧ col = 0)) ∧
  (∀ (s : State) (w : Request) (rest : List HostInput) (e : IllegalCommand),
    s.inputs = .request w :: rest → decode w = .error e →
    ∃ t, step s = .next t ∧ SameArch s t)

/-- A few request words written out from R61 and R64 decode to the commands they stand for. -/
def Obligations.SampleRequestWordsDecode : Prop :=
  decode 0x011234560000000000000000 = .ok (.pack 0x12 0x34 0x56) ∧
  decode 0x0200000000000000AB123456 = .ok (.unpack 0xAB123456) ∧
  decode 0x03000000000000020ABCDEF1 = .ok (.setpix 2 0x0ABCDEF1) ∧
  decode 0x050000000020FFF000ABCDEF = .ok (.fill 0x00ABCDEF 0xFFF0 0x0020) ∧
  decode 0x090000800000000000000000 = .ok (.setbri 128)

/-! ### Steps, requests and responses -/

/-- A step on a waiting request that decodes to a command is that command's meaning, with the request taken off the
host's inputs (R9, R66). -/
def Obligations.StepRunsTheDecodedCommand : Prop :=
  ∀ (s : State) (w : Request) (rest : List HostInput) (i : Instr),
    s.inputs = .request w :: rest → s.inReset = false → decode w = .ok i →
    step s = exec i { s with inputs := rest }

/-- R141: an illegal request writes neither `PIX`, `LEN` nor `BRT`, its response is `ILL = 1` with every other field 0,
and the block then takes the next request. -/
def Obligations.StepRejectsAnIllegalRequest : Prop :=
  ∀ (s : State) (w : Request) (rest : List HostInput) (e : IllegalCommand),
    s.inputs = .request w :: rest → s.inReset = false → decode w = .error e →
    step s = .next { s with inputs := rest, responses := s.responses ++ [0x0100000000000000] }

/-- No step stops, and each takes at most one input. The spec says that none of the source's failure conditions is an
exception (R142) and that every command completes (R165). The rest is THE MODEL'S CHOICE or reading: that a step with no
input answers the same state (notes/assumptions/3.md), that asserting and releasing reset are steps (4.md), that one step
takes one input (11.md), and that the model has no fault at all (12.md). -/
def Obligations.EveryStepAnswersNext : Prop :=
  ∀ s : State, ∃ t, step s = .next t ∧ t.inputs = s.inputs.tail ∧ t.params = s.params

/-- A run over requests serves them in order and returns exactly one response for each, in the order of the requests:
after `k` steps the first `k` responses are there (R50, R150, R166). That the host's requests and the responses stand in the
state, that reset has a level there, and that a request takes one step are THE MODEL'S CHOICE or reading
(notes/assumptions/2.md, 4.md, 11.md). -/
def Obligations.RunReturnsOneResponsePerRequest : Prop :=
  ∀ (s : State) (ws : List Request), s.inReset = false →
    ∃ rs : List ResponseWord, rs.length = ws.length ∧
      ∀ k ≤ ws.length, ∃ t : State,
        Host.Core.run Sys2Proof.core k { s with inputs := ws.map HostInput.request } = .next t ∧
        t.inputs = (ws.drop k).map HostInput.request ∧
        t.responses = s.responses ++ rs.take k ∧ t.inReset = false

/-- The response to a request has bits 63:57 zero and `ILL` set exactly when the request is illegal: no executed command
sets it (R63, R140, R142). -/
def Obligations.ResponseIllBitMarksIllegalRequests : Prop :=
  ∀ (s t : State) (w : Request) (rest : List HostInput),
    s.inputs = .request w :: rest → s.inReset = false → step s = .next t →
    ∃ r : ResponseWord, t.responses = s.responses ++ [r] ∧ r.extractLsb' 57 7 = 0 ∧
      (r.getLsbD 56 = true ↔ ∃ e, decode w = .error e)

/-- With no input from the host the block waits: nothing changes. THE MODEL'S CHOICE (notes/assumptions/3.md); the spec
has no step without a request. -/
def Obligations.WaitingChangesNothing : Prop :=
  ∀ s : State, s.inputs = [] → step s = .next s

/-! ### The colour codec -/

/-- R82: PACK. Its encoding, its result in `DATA`, no state written. -/
def Obligations.PackReturnsThePackedColor : Prop :=
  ∀ (r g b : Byte),
    decode (0x01#8 ++ r ++ g ++ b ++ 0#16 ++ 0#16 ++ 0#32) = .ok (.pack r g b) ∧
    ∀ s : State, exec (.pack r g b) s =
      .next { s with responses :=
        s.responses ++ [BitVec.ofNat 64 (r.toNat * 2 ^ 16 + g.toNat * 2 ^ 8 + b.toNat)] }

/-- R83: UNPACK. Its encoding, the three channels in `UR`, `UG`, `UB`, no state written; the top byte has no effect. -/
def Obligations.UnpackReturnsTheChannels : Prop :=
  ∀ (white r g b : Byte),
    decode (0x02#8 ++ 0#8 ++ 0#8 ++ 0#8 ++ 0#16 ++ 0#16 ++ (white ++ r ++ g ++ b : BitVec 32)) =
      .ok (.unpack (white ++ r ++ g ++ b)) ∧
    ∀ s : State, exec (.unpack (white ++ r ++ g ++ b)) s =
      .next { s with responses :=
        s.responses ++ [BitVec.ofNat 64 (r.toNat * 2 ^ 48 + g.toNat * 2 ^ 40 + b.toNat * 2 ^ 32)] }

/-- The four laws of the codec. They are the spec's own inference: "For all 8-bit `r`, `g`, `b` and 32-bit `c` [derived:
from rules R80 and R81]". -/
def Obligations.CodecRoundTrips : Prop :=
  (∀ x : Rgb, unpackColor (packColor x) = x) ∧
  (∀ c : Color, packColor (unpackColor c) = c &&& 0x00FFFFFF) ∧
  (∀ x y : Rgb, packColor x = packColor y → x = y) ∧
  (∀ c d : Color, c.extractLsb' 24 8 = 0 → d.extractLsb' 24 8 = 0 → unpackColor c = unpackColor d → c = d) ∧
  (∀ c d : Color, c.extractLsb' 0 24 = d.extractLsb' 0 24 → unpackColor c = unpackColor d)

/-! ### The pixel buffer -/

/-- R90: the write scale is the rule's formula in 16-bit arithmetic, narrowed by its slice. -/
def Obligations.WriteScaleIsTheFixedPointFormula : Prop :=
  ∀ ch s : Byte,
    wscale ch s = if s = 0 then ch else ((ch.setWidth 16 * s.setWidth 16) >>> 8).setWidth 8

/-- The 16 bits of the write scale hold the product, and the result is at most 254 and at most `s - 1`. The spec's own
inference: "the slice `[7:0]` never drops a set bit [derived: from rule R90's operand widths]". -/
def Obligations.WriteScaleNeverDropsABit : Prop :=
  ∀ ch s : Byte,
    (ch.setWidth 16 * s.setWidth 16).toNat = ch.toNat * s.toNat ∧ ch.toNat * s.toNat ≤ 65025 ∧
    (s ≠ 0 → (wscale ch s).toNat = ch.toNat * s.toNat / 2 ^ 8 ∧ (wscale ch s).toNat ≤ 254 ∧
      (wscale ch s).toNat ≤ s.toNat - 1)

/-- R91: the read inversion is the rule's formula in 16-bit arithmetic, narrowed by its slice. -/
def Obligations.ReadInversionIsTheFloorQuotient : Prop :=
  ∀ p s : Byte,
    rscale p s = if s = 0 then p else ((p.setWidth 16 <<< 8) / s.setWidth 16).setWidth 8

/-- The slice of the read inversion drops nothing for a byte that a reachable state can hold. The spec's own inference,
from its R30: "`p <= s - 1` (`10_state.md` rule R30) gives `256p / s < 256`". -/
def Obligations.ReadInversionIsExactForReachableBytes : Prop :=
  ∀ p s : Byte, s ≠ 0 → p.toNat ≤ s.toNat - 1 → (rscale p s).toNat = p.toNat * 2 ^ 8 / s.toNat

/-- R92: SETPIX. Its encoding; where `i < LEN` the entry's three bytes get the scaled channels and every other byte keeps
its value; where `i >= LEN` nothing but the response changes. -/
def Obligations.SetpixWritesOneScaledEntry : Prop :=
  ∀ (i : Half) (c : Color),
    decode (0x03#8 ++ 0#8 ++ 0#8 ++ 0#8 ++ 0#16 ++ i ++ c) = .ok (.setpix i c) ∧
    (∀ s : State, ¬ i < s.len → exec (.setpix i c) s = .next { s with responses := s.responses ++ [0] }) ∧
    (∀ s : State, Memory.wf s.pix → i < s.len →
      ∃ t, exec (.setpix i c) s = .next t ∧
        Memory.read t.pix (entryAddr i.toNat) = wscale (c.extractLsb' 16 8) s.brt ∧
        Memory.read t.pix (entryAddr i.toNat + 1) = wscale (c.extractLsb' 8 8) s.brt ∧
        Memory.read t.pix (entryAddr i.toNat + 2) = wscale (c.extractLsb' 0 8) s.brt ∧
        (∀ a, a ≠ entryAddr i.toNat → a ≠ entryAddr i.toNat + 1 → a ≠ entryAddr i.toNat + 2 →
          Memory.read t.pix a = Memory.read s.pix a) ∧
        t.len = s.len ∧ t.brt = s.brt ∧ t.responses = s.responses ++ [0] ∧ SamePorts s t)

/-- R93: GETPIX. Its encoding; the entry's bytes with the brightness inverted, packed, or 0 where `i >= LEN`; no state
written. -/
def Obligations.GetpixReturnsTheInvertedEntry : Prop :=
  ∀ i : Half,
    decode (0x04#8 ++ 0#8 ++ 0#8 ++ 0#8 ++ 0#16 ++ i ++ 0#32) = .ok (.getpix i) ∧
    ∀ s : State, exec (.getpix i) s =
      .next { s with responses := s.responses ++
        [if i < s.len then
          BitVec.ofNat 64
            ((rscale (Memory.read s.pix (entryAddr i.toNat)) s.brt).toNat * 2 ^ 16 +
              (rscale (Memory.read s.pix (entryAddr i.toNat + 1)) s.brt).toNat * 2 ^ 8 +
              (rscale (Memory.read s.pix (entryAddr i.toNat + 2)) s.brt).toNat)
        else 0] }

/-- At the requested brightness 0 (`BRT = 1`) every read is black. The spec's own inference: "with `BRT = 1` every in-range
read is 0 [derived: from 10_state.md rule R30, since every byte is 0 then]". -/
def Obligations.GetpixAtRequestedZeroIsBlack : Prop :=
  ∀ (s : State) (i : Half), s.Inv → s.brt = 1 →
    exec (.getpix i) s = .next { s with responses := s.responses ++ [0] }

/-- R94: FILL. Its encoding; the entries `[first, end)` get the scaled colour, with `end` the exact sum clipped to `LEN`
or `LEN` where `count` is 0, and every byte of no such entry keeps its value. -/
def Obligations.FillWritesTheClippedRange : Prop :=
  ∀ (c : Color) (first count : Half),
    decode (0x05#8 ++ 0#8 ++ 0#8 ++ 0#8 ++ count ++ first ++ c) = .ok (.fill c first count) ∧
    (∀ s : State, ¬ first < s.len → exec (.fill c first count) s = .next { s with responses := s.responses ++ [0] }) ∧
    (∀ s : State, Memory.wf s.pix → first < s.len →
      let last := if count = 0 then s.len.toNat else min (first.toNat + count.toNat) s.len.toNat
      ∃ t, exec (.fill c first count) s = .next t ∧
        (∀ i, first.toNat ≤ i → i < last →
          Memory.read t.pix (entryAddr i) = wscale (c.extractLsb' 16 8) s.brt ∧
          Memory.read t.pix (entryAddr i + 1) = wscale (c.extractLsb' 8 8) s.brt ∧
          Memory.read t.pix (entryAddr i + 2) = wscale (c.extractLsb' 0 8) s.brt) ∧
        (∀ a, (∀ i, first.toNat ≤ i → i < last →
            a ≠ entryAddr i ∧ a ≠ entryAddr i + 1 ∧ a ≠ entryAddr i + 2) →
          Memory.read t.pix a = Memory.read s.pix a) ∧
        t.len = s.len ∧ t.brt = s.brt ∧ t.responses = s.responses ++ [0] ∧ SamePorts s t)

/-- The four FILL laws; the third says that FILL leaves the same state as SETPIX on its entries in any order. They are
the spec's own inference: "FILL laws [derived: from rules R92 and R94]". -/
def Obligations.FillLaws : Prop :=
  (∀ (c : Color) (first : Half) (s : State), first < s.len →
    exec (.fill c first 0) s = exec (.fill c first (s.len - first)) s) ∧
  (∀ (c : Color) (first count : Half) (s : State), ¬ first < s.len →
    exec (.fill c first count) s = .next { s with responses := s.responses ++ [0] }) ∧
  (∀ (c : Color) (first count : Half) (s : State) (l : List Half), Memory.wf s.pix → first < s.len →
    l.Perm ((List.range' first.toNat (fillEnd first count s.len - first.toNat)).map (BitVec.ofNat 16)) →
    ∃ t u, exec (.fill c first count) s = .next t ∧ execAll (l.map fun i => .setpix i c) s = some u ∧ SameArch t u) ∧
  (∀ (c : Color) (s : State), Memory.wf s.pix →
    ∃ t, exec (.fill c 0 0) s = .next t ∧
      ∀ i, i < s.len.toNat → Memory.readEntry t.pix i = mapChannels (fun ch => wscale ch s.brt) (unpackColor c))

/-- R96: CLEAR. Its encoding; every live byte is 0 whatever the brightness, every other byte keeps its value; GETPIX then
returns 0 for every index at every brightness. -/
def Obligations.ClearZeroesEveryLiveByte : Prop :=
  decode (0x06#8 ++ 0#8 ++ 0#8 ++ 0#8 ++ 0#16 ++ 0#16 ++ 0#32) = .ok .clear ∧
  (∀ s : State, ∃ t, exec .clear s = .next t ∧
    (∀ a, a < 3 * s.len.toNat → Memory.read t.pix a = 0) ∧
    (∀ a, 3 * s.len.toNat ≤ a → Memory.read t.pix a = Memory.read s.pix a) ∧
    t.len = s.len ∧ t.brt = s.brt ∧ t.responses = s.responses ++ [0] ∧ SamePorts s t) ∧
  (∀ (s : State) (i : Half), ∃ t u, exec .clear s = .next t ∧ exec (.getpix i) t = .next u ∧
    u.responses = s.responses ++ [0, 0])

/-- R97: LENGTH. Its encoding, `LEN` in `DATA`, no state written. -/
def Obligations.LengthReturnsThePixelCount : Prop :=
  decode (0x08#8 ++ 0#8 ++ 0#8 ++ 0#8 ++ 0#16 ++ 0#16 ++ 0#32) = .ok .length ∧
  ∀ s : State, exec .length s =
    .next { s with responses := s.responses ++ [BitVec.ofNat 64 s.len.toNat] }

/-- R98: RESIZE. Its encoding; `LEN` is `n`, or 0 where `n > MAX_PIXELS`; every live byte is 0 and no byte above is live;
`BRT` is kept. -/
def Obligations.ResizeReplacesTheBuffer : Prop :=
  ∀ n : Half,
    decode (0x07#8 ++ 0#8 ++ 0#8 ++ 0#8 ++ 0#16 ++ n ++ 0#32) = .ok (.resize n) ∧
    ∀ s : State, ∃ t, exec (.resize n) s = .next t ∧
      t.len = (if n.toNat ≤ s.params.maxPixels.val then n else 0) ∧
      (∀ a, t.liveByte a = if a < 3 * t.len.toNat then some 0 else none) ∧
      t.brt = s.brt ∧ t.responses = s.responses ++ [0] ∧ SamePorts s t

/-- R99: RDRAW. Its encoding; the stored bytes packed, or 0 where `i >= LEN`; no state written. -/
def Obligations.RdrawReturnsTheStoredEntry : Prop :=
  ∀ i : Half,
    decode (0x0B#8 ++ 0#8 ++ 0#8 ++ 0#8 ++ 0#16 ++ i ++ 0#32) = .ok (.rdraw i) ∧
    (∀ s : State, exec (.rdraw i) s =
      .next { s with responses := s.responses ++
        [if i < s.len then
          BitVec.ofNat 64
            ((Memory.read s.pix (entryAddr i.toNat)).toNat * 2 ^ 16 +
              (Memory.read s.pix (entryAddr i.toNat + 1)).toNat * 2 ^ 8 +
              (Memory.read s.pix (entryAddr i.toNat + 2)).toNat)
        else 0] })

/-- RDRAW equals GETPIX while the brightness is unset. The spec's own inference: "equals GETPIX when `BRT = 0` [derived:
from rules R91 and R93]". -/
def Obligations.RdrawEqualsGetpixWhileUnset : Prop :=
  ∀ (i : Half) (s : State), s.brt = 0 → exec (.rdraw i) s = exec (.getpix i) s

/-- With `LEN = 0` the pixel commands change nothing and read 0, and SETBRI changes only `BRT`. The spec's own inference:
"Zero length. When `LEN = 0`: ... [derived: from rules R92 to R99 and 42_brightness.md rule R125]". -/
def Obligations.ZeroLengthBuffer : Prop :=
  ∀ s : State, s.len = 0 →
    (∀ i c, exec (.setpix i c) s = .next { s with responses := s.responses ++ [0] }) ∧
    (∀ c first count, exec (.fill c first count) s = .next { s with responses := s.responses ++ [0] }) ∧
    exec .clear s = .next { s with responses := s.responses ++ [0] } ∧
    (∀ i, exec (.getpix i) s = .next { s with responses := s.responses ++ [0] }) ∧
    (∀ i, exec (.rdraw i) s = .next { s with responses := s.responses ++ [0] }) ∧
    exec .length s = .next { s with responses := s.responses ++ [0] } ∧
    (∀ v, exec (.setbri v) s = .next { s with brt := v + 1, responses := s.responses ++ [0] })

/-- What SETPIX and then GETPIX return. Exact at the unset brightness; never more than was written at a set one,
with the stated greatest losses; a read written back can decay; out of range nothing is written and 0 is read. The spec's
own inference: "Set and get [derived: from rules R90, R91, R92, R93 and 40_codec.md rule R84]". -/
def Obligations.SetThenGetLaws : Prop :=
  (∀ (s : State) (i : Half) (c : Color), Memory.wf s.pix → s.brt = 0 → i < s.len →
    ∃ t u, exec (.setpix i c) s = .next t ∧ exec (.getpix i) t = .next u ∧
      u.responses = s.responses ++ [0, (c &&& 0x00FFFFFF).setWidth 64]) ∧
  (∀ ch s : Byte, s ≠ 0 → (rscale (wscale ch s) s).toNat ≤ ch.toNat) ∧
  (∀ sl ∈ [((1 : Byte), 255), (2, 127), (129, 2), (255, 1)],
    (∀ ch : Byte, ch.toNat - (rscale (wscale ch sl.1) sl.1).toNat ≤ sl.2) ∧
    ∃ ch : Byte, ch.toNat - (rscale (wscale ch sl.1) sl.1).toNat = sl.2) ∧
  (rscale 1 129 = 1 ∧ wscale 1 129 = 0) ∧
  (∀ (s : State) (i : Half) (c : Color), ¬ i < s.len →
    ∃ t u, exec (.setpix i c) s = .next t ∧ SameArch s t ∧ exec (.getpix i) t = .next u ∧
      u.responses = s.responses ++ [0, 0])

/-! ### The brightness scaler -/

/-- R120: the stored and the requested brightness, and that the bias is undone. -/
def Obligations.BrightnessBiasIsUndone : Prop :=
  (∀ v : Byte, (storedBrightness v).toNat = (v.toNat + 1) % 256) ∧
  (∀ s : Byte, (requestedBrightness s).toNat = (s.toNat + 255) % 256) ∧
  (∀ v : Byte, requestedBrightness (storedBrightness v) = v) ∧
  storedBrightness 255 = 0

/-- R122: SETBRI leaves `PIX`, `LEN` and `BRT` alone exactly when the stored value equals the current one. -/
def Obligations.SetbriIsNoOpExactlyWhenStoredValueIsCurrent : Prop :=
  ∀ (s : State) (v : Byte), ∃ t, exec (.setbri v) s = .next t ∧ (SameArch s t ↔ v + 1 = s.brt)

/-- R123: the rescale ratio, its three branches in order; no quotient is cut by the 16 bits, and in the last branch the
dividend is 255..65279. -/
def Obligations.RescaleRatioFormula : Prop :=
  ∀ cur v : Byte, v + 1 ≠ cur →
    let old := (cur.toNat + 255) % 256
    let new := (v.toNat + 1) % 256
    (rescaleRatio cur v).toNat =
      (if old = 0 then 0 else if v = 255 then 65535 / old else (new * 2 ^ 8 - 1) / old) ∧
    (old ≠ 0 → v ≠ 255 → 255 ≤ new * 2 ^ 8 - 1 ∧ new * 2 ^ 8 - 1 ≤ 65279)

/-- R124: the rescale of a byte is the rule's 24-bit formula. -/
def Obligations.RescaleByteIsTheFixedPointFormula : Prop :=
  ∀ (p : Byte) (k : Half),
    rescaleByte k p = ((p.setWidth 24 * k.setWidth 24) >>> 8).setWidth 8 ∧
    (p.setWidth 24 * k.setWidth 24).toNat = p.toNat * k.toNat ∧ p.toNat * k.toNat < 2 ^ 24

/-- R125: SETBRI. Its encoding; a no-op where `v + 1` is the current `BRT`; else every live byte is rescaled by the one
ratio computed from the old `BRT`, every other byte keeps its value, and `BRT` becomes `v + 1`. -/
def Obligations.SetbriRescalesEveryLiveByte : Prop :=
  ∀ v : Byte,
    decode (0x09#8 ++ 0#8 ++ 0#8 ++ v ++ 0#16 ++ 0#16 ++ 0#32) = .ok (.setbri v) ∧
    (∀ s : State, v + 1 = s.brt → exec (.setbri v) s = .next { s with responses := s.responses ++ [0] }) ∧
    (∀ s : State, Memory.wf s.pix → v + 1 ≠ s.brt →
      ∃ t, exec (.setbri v) s = .next t ∧
        (∀ a, a < 3 * s.len.toNat →
          Memory.read t.pix a = rescaleByte (rescaleRatio s.brt v) (Memory.read s.pix a)) ∧
        (∀ a, 3 * s.len.toNat ≤ a → Memory.read t.pix a = Memory.read s.pix a) ∧
        t.brt = v + 1 ∧ t.len = s.len ∧ t.responses = s.responses ++ [0] ∧ SamePorts s t)

/-- R126: GETBRI. Its encoding, `(BRT - 1) mod 256` in `DATA`, no state written; after SETBRI `v` it returns exactly `v`. -/
def Obligations.GetbriReturnsTheRequestedBrightness : Prop :=
  decode (0x0A#8 ++ 0#8 ++ 0#8 ++ 0#8 ++ 0#16 ++ 0#16 ++ 0#32) = .ok .getbri ∧
  (∀ s : State, exec .getbri s =
    .next { s with responses := s.responses ++ [BitVec.ofNat 64 ((s.brt.toNat + 255) % 256)] }) ∧
  (∀ (s : State) (v : Byte), ∃ t u, exec (.setbri v) s = .next t ∧ exec .getbri t = .next u ∧
    u.responses = s.responses ++ [0, v.setWidth 64])

/-- No carry. In a state that meets the invariant every product SETBRI computes is at most 255 after the shift, and
at most `new - 1` where the new `BRT` is not 0; outside such states the slice does drop bits. The spec's own inference: "No
carry. In every reachable state, every byte SETBRI writes satisfies ... [derived: from 10_state.md rule R30 and rule
R123 ...]". -/
def Obligations.RescaleNeverCarriesInReachableStates : Prop :=
  (∀ (s : State) (v : Byte), s.Inv → v + 1 ≠ s.brt → ∀ a, a < 3 * s.len.toNat →
    let shifted := (Memory.read s.pix a).toNat * (rescaleRatio s.brt v).toNat / 2 ^ 8
    shifted ≤ 255 ∧ (v + 1 ≠ 0 → shifted ≤ (v + 1).toNat - 1)) ∧
  ∃ v : Byte, v + 1 ≠ 2 ∧ 255 < 200 * (rescaleRatio 2 v).toNat / 2 ^ 8

/-- Loss is permanent: a byte 200 at the unset brightness goes through SETBRI 99, 199, 99, 255 as 78, 157, 78 and
finally 201, and the brightness is unset again. The spec's own inference: "Loss is permanent and compounds [derived:
from rules R123 to R125]". -/
def Obligations.RescaleLossCompounds : Prop :=
  ∀ (s : State) (a : Nat), Memory.wf s.pix → s.brt = 0 → a < 3 * s.len.toNat → Memory.read s.pix a = 200 →
    ∃ t₁ t₂ t₃ t₄,
      exec (.setbri 99) s = .next t₁ ∧ Memory.read t₁.pix a = 78 ∧
      exec (.setbri 199) t₁ = .next t₂ ∧ Memory.read t₂.pix a = 157 ∧
      exec (.setbri 99) t₂ = .next t₃ ∧ Memory.read t₃.pix a = 78 ∧
      exec (.setbri 255) t₃ = .next t₄ ∧ Memory.read t₄.pix a = 201 ∧ t₄.brt = 0

/-- From the unset state the rescale is the write scale, so SETPIX and then SETBRI leave what SETBRI and then SETPIX
leave; from a set brightness they need not. The spec's own inference: "Rescale from unset equals pre-multiplication ...
[derived: from rules R123, R124 and 41_pixel_buffer.md rule R90 ...]". -/
def Obligations.RescaleFromUnsetIsPremultiplication : Prop :=
  (∀ p v : Byte, v ≠ 255 → rescaleByte (rescaleRatio 0 v) p = wscale p (v + 1)) ∧
  (∀ (s : State) (i : Half) (c : Color) (v : Byte), Memory.wf s.pix → s.brt = 0 →
    ∃ t u, execAll [.setpix i c, .setbri v] s = some t ∧ execAll [.setbri v, .setpix i c] s = some u ∧
      SameArch t u) ∧
  (wscale 0x80 129 = 0x40 ∧ rescaleByte (rescaleRatio 129 63) 0x40 = 0x1F ∧ wscale 0x80 64 = 0x20)

/-! ### The whole machine -/

/-- The reading commands change no state, and every command is idempotent: issued twice in a row it leaves the state the
first left. The spec's own inference: "issuing the same request twice in a row leaves the state the first left [derived:
from the rules of 41_pixel_buffer.md and 42_brightness.md]". -/
def Obligations.CommandsAreIdempotent : Prop :=
  (∀ (i : Instr) (s : State),
    ((∃ r g b, i = .pack r g b) ∨ (∃ c, i = .unpack c) ∨ (∃ n, i = .getpix n) ∨ (∃ n, i = .rdraw n) ∨
      i = .length ∨ i = .getbri) →
    ∃ t, exec i s = .next t ∧ SameArch s t) ∧
  (∀ (i : Instr) (s : State), Memory.wf s.pix →
    ∃ t u, exec i s = .next t ∧ exec i t = .next u ∧ SameArch t u)

/-- Only SETBRI writes `BRT` and only RESIZE writes `LEN`, among the commands; the other writer of each is reset
(R23, R24, R131). -/
def Obligations.OnlyTheirWritersChangeTheRegisters : Prop :=
  (∀ (i : Instr) (s t : State), exec i s = .next t →
    (t.brt ≠ s.brt → ∃ v, i = .setbri v ∧ t.brt = v + 1) ∧
    (t.len ≠ s.len → ∃ n, i = .resize n ∧ (t.len = n ∨ t.len = 0))) ∧
  (∀ s t : State, step s = .next t → (t.brt ≠ s.brt ∨ t.len ≠ s.len) →
    (∃ w rest i, s.inputs = .request w :: rest ∧ decode w = .ok i ∧ exec i { s with inputs := rest } = .next t) ∨
    (t.brt = 0 ∧ t.len = allocLen s.params (BitVec.ofFin s.params.initLen) ∧
      ((∃ rest, s.inputs = .assertReset :: rest) ∨ (∃ w rest, s.inputs = .requestCutByReset w :: rest) ∨
        ∃ rest, s.inputs = .powerCycle :: rest)))

/-- No command reads a dead byte (R22: "both give the same results for every command"). Two states
with the same parameters, `LEN`, `BRT` and live bytes answer every command with the same response, and are again such
states after it. -/
def Obligations.DeadBytesAreNeverObserved : Prop :=
  ∀ (i : Instr) (s t : State), Memory.wf s.pix → Memory.wf t.pix → SameLive s t →
    ∃ s' t' r, exec i s = .next s' ∧ exec i t = .next t' ∧
      s'.responses = s.responses ++ [r] ∧ t'.responses = t.responses ++ [r] ∧ SameLive s' t'

/-- The state after reset meets the invariant, whatever the open parameters are. R23 and R30 mark what it says of `LEN`
and of the bytes as the spec's own inference; the canonical form of the memory is the model's (notes/assumptions/6.md). -/
def Obligations.ResetMeetsTheInvariant : Prop :=
  State.reset.Inv

/-- Every step keeps the invariant: `LEN <= MAX_PIXELS`, the canonical memory of live bytes, no live byte above `BRT - 1`
while a brightness is set, and the reset state while reset is asserted. R23 and R30 mark their parts as the spec's own
inference ("Reachability invariant. ... [derived: ...]"); the memory's form and the level of the reset input are the
model's (notes/assumptions/4.md, 6.md). -/
def Obligations.EveryStepKeepsTheInvariant : Prop :=
  ∀ s t : State, s.Inv → step s = .next t → t.Inv

/-! ### Reset -/

/-- R32: the state after reset, for every value of the parameters: `BRT` 0, `LEN` `INIT_LEN` or 0 where it is above
`MAX_PIXELS`, every live byte 0, no other byte with a value. -/
def Obligations.ResetValuesForEveryParameterChoice : Prop :=
  State.reset = State.powerUp Config.params ∧
  ∀ p : Params,
    (State.powerUp p).params = p ∧ (State.powerUp p).brt = 0 ∧
    (State.powerUp p).len.toNat = (if p.initLen.val ≤ p.maxPixels.val then p.initLen.val else 0) ∧
    ∀ a, (State.powerUp p).liveByte a = if a < 3 * (State.powerUp p).len.toNat then some 0 else none

/-- The reset state is what RESIZE `INIT_LEN` leaves from any state with `BRT = 0`. The spec's own inference: "This is the
state RESIZE `INIT_LEN` gives from any state with `BRT == 0` [derived: from 41_pixel_buffer.md rule R98]". -/
def Obligations.ResetIsResizeToInitLenFromUnset : Prop :=
  ∀ s : State, s.brt = 0 →
    ∃ t, exec (.resize (BitVec.ofNat 16 s.params.initLen.val)) s = .next t ∧ SameArch t (State.powerUp s.params)

/-- R160: asserting reset, and powering up, put `PIX`, `LEN` and `BRT` into their reset values; no command puts `BRT` back
to 0 but SETBRI 255. -/
def Obligations.ResetInputRestoresTheResetState : Prop :=
  (∀ (s : State) (rest : List HostInput), s.inputs = .assertReset :: rest →
    ∃ t, step s = .next t ∧ SameArch t (State.powerUp s.params) ∧ t.inputs = rest ∧ t.params = s.params) ∧
  (∀ (s : State) (rest : List HostInput), s.inputs = .powerCycle :: rest →
    ∃ t, step s = .next t ∧ SameArch t (State.powerUp s.params) ∧ t.inputs = rest ∧ t.params = s.params) ∧
  (∀ (i : Instr) (s t : State), exec i s = .next t → t.brt = 0 → s.brt = 0 ∨ i = .setbri 255)

/-- R161: a command cut by reset returns no response and leaves the reset state; a request presented while reset is
asserted is not taken. -/
def Obligations.RequestsDuringResetAreNotServed : Prop :=
  (∀ (s : State) (w : Request) (rest : List HostInput), s.inputs = .requestCutByReset w :: rest →
    ∃ t, step s = .next t ∧ t.responses = s.responses ∧ SameArch t (State.powerUp s.params) ∧ t.inputs = rest ∧
      t.params = s.params) ∧
  (∀ (s : State) (w : Request) (rest : List HostInput), s.inputs = .request w :: rest → s.inReset = true →
    step s = .next { s with inputs := rest })

/-- The level of the reset input is what the host last made it: asserted by the two inputs that assert it, released by the
one that releases it, kept by every other step. THE MODEL'S CHOICE (notes/assumptions/4.md). -/
def Obligations.ResetLevelFollowsTheHost : Prop :=
  ∀ s t : State, step s = .next t →
    t.inReset =
      match s.inputs with
      | .assertReset :: _ => true
      | .requestCutByReset _ :: _ => true
      | .releaseReset :: _ => false
      | _ => s.inReset

/-- The first request may follow the end of reset directly (R163): releasing reset changes nothing that the block holds.
That releasing reset is a step of its own is THE MODEL'S CHOICE (notes/assumptions/4.md). -/
def Obligations.ReleasingResetChangesNothingHeld : Prop :=
  ∀ (s : State) (w : Request) (rest : List HostInput) (i : Instr),
    s.inputs = .releaseReset :: .request w :: rest → decode w = .ok i →
    ∃ t, step s = .next t ∧ SameArch s t ∧ t.responses = s.responses ∧
      step t = exec i { t with inputs := rest }

/-! ### The assembler -/

/-- The assembler gives each core line its command, operands in the order of the line, and refuses an operand that does
not fit its field (R69). -/
def Obligations.AssemblerRefusesOperandsThatDoNotFit : Prop :=
  (∀ l : AsmLine, l.wellFormed = false → assemble l = .error .operandTooWide) ∧
  (∀ r g b : Byte, assemble (.pack r.toNat g.toNat b.toNat) = .ok (.pack r g b)) ∧
  (∀ c : Color, assemble (.unpack c.toNat) = .ok (.unpack c)) ∧
  (∀ (i : Half) (c : Color), assemble (.setpix i.toNat c.toNat) = .ok (.setpix i c)) ∧
  (∀ i : Half, assemble (.getpix i.toNat) = .ok (.getpix i)) ∧
  (∀ (c : Color) (first count : Half),
    assemble (.fill c.toNat first.toNat count.toNat) = .ok (.fill c first count)) ∧
  assemble .clear = .ok .clear ∧
  (∀ n : Half, assemble (.resize n.toNat) = .ok (.resize n)) ∧
  assemble .length = .ok .length ∧
  (∀ v : Byte, assemble (.setbri v.toNat) = .ok (.setbri v)) ∧
  assemble .getbri = .ok .getbri ∧
  (∀ i : Half, assemble (.rdraw i.toNat) = .ok (.rdraw i))

/-- R70: the pseudo-instructions and the commands they are expanded into. -/
def Obligations.PseudoInstructionsExpandToOneCommand : Prop :=
  (∀ (index : Half) (r g b : Byte),
    assemble (.setrgb index.toNat r.toNat g.toNat b.toNat) =
      assemble (.setpix index.toNat ((r.toNat <<< 16) ||| (g.toNat <<< 8) ||| b.toNat))) ∧
  (∀ color : Nat, assemble (.fillall color) = assemble (.fill color 0 0)) ∧
  (∀ color first : Nat, assemble (.fillfrom color first) = assemble (.fill color first 0))

/-- SETRGB is SETPIX of the packed channels, so SETPIX unpacks it back to them. The spec's own inference: "SETPIX unpacks
it back to `r, g, b` [derived: from 40_codec.md rule R84]". -/
def Obligations.SetrgbIsSetpixOfThePackedChannels : Prop :=
  ∀ (index : Half) (r g b : Byte),
    ∃ c, assemble (.setrgb index.toNat r.toNat g.toNat b.toNat) = .ok (.setpix index c) ∧
      c = packColor ⟨r, g, b⟩ ∧ unpackColor c = ⟨r, g, b⟩
end

