-- ==== Sys2Proof/Laws/Decode.lean ====
section
/-!
SUPPORT. The request word and its fields, and when a row of the opcode table selects a request.
-/

namespace Sys2Proof

/-- The fields of a word made of fields are those fields (R61). -/
@[simp] theorem requestFields_fieldsWord (f : Fields) : requestFields (fieldsWord f) = f := by
  obtain ⟨op, p2, p1, p0, cnt, idx, col⟩ := f
  simp only [requestFields, fieldsWord, Fields.mk.injEq]
  refine ⟨?_, ?_, ?_, ?_, ?_, ?_, ?_⟩ <;>
  · ext i hi
    simp only [BitVec.getElem_extractLsb', BitVec.getLsbD_append]
    first
      | (simp [hi, ← BitVec.getLsbD_eq_getElem]; done)
      | (repeat rw [if_neg (by omega)]
         try rw [if_pos (by omega)]
         rw [← BitVec.getLsbD_eq_getElem]
         congr 1
         omega)

/-- A word is made of its fields: they cover all 96 bits (R61). -/
@[simp] theorem fieldsWord_requestFields (w : Request) : fieldsWord (requestFields w) = w := by
  apply BitVec.eq_of_getLsbD_eq
  intro i hi
  simp only [fieldsWord, requestFields, BitVec.getLsbD_append, BitVec.getLsbD_extractLsb']
  split_ifs <;>
  · rw [decide_eq_true (by omega), Bool.true_and]
    congr 1
    omega

/-- Two words are equal exactly when their fields are. -/
theorem fieldsWord_inj {f g : Fields} : fieldsWord f = fieldsWord g ↔ f = g :=
  ⟨fun h => by rw [← requestFields_fieldsWord f, h, requestFields_fieldsWord], fun h => by rw [h]⟩

/-- Masking works field by field. -/
theorem fieldsWord_and (f g : Fields) :
    fieldsWord f &&& fieldsWord g =
      fieldsWord ⟨f.op &&& g.op, f.p2 &&& g.p2, f.p1 &&& g.p1, f.p0 &&& g.p0, f.cnt &&& g.cnt, f.idx &&& g.idx,
        f.col &&& g.col⟩ := by
  apply BitVec.eq_of_getLsbD_eq
  intro i _
  simp only [fieldsWord, BitVec.getLsbD_and, BitVec.getLsbD_append]
  split_ifs <;> rfl

/-- The mask test of R66, field by field. -/
theorem mask_beq (f mask code : Fields) :
    ((fieldsWord f &&& fieldsWord mask) == fieldsWord code) =
      decide (f.op &&& mask.op = code.op ∧ f.p2 &&& mask.p2 = code.p2 ∧ f.p1 &&& mask.p1 = code.p1 ∧
        f.p0 &&& mask.p0 = code.p0 ∧ f.cnt &&& mask.cnt = code.cnt ∧ f.idx &&& mask.idx = code.idx ∧
        f.col &&& mask.col = code.col) := by
  rw [fieldsWord_and, Bool.eq_iff_iff, beq_iff_eq, fieldsWord_inj, Fields.ext_iff, decide_eq_true_iff]

/-- Everything the decoder can answer, by the request's fields (R64 to R66). -/
theorem decode_fieldsWord (f : Fields) :
    decode (fieldsWord f) =
      if f.op = 0x01 ∧ f.cnt = 0 ∧ f.idx = 0 ∧ f.col = 0 then .ok (.pack f.p2 f.p1 f.p0)
      else if f.op = 0x02 ∧ f.p2 = 0 ∧ f.p1 = 0 ∧ f.p0 = 0 ∧ f.cnt = 0 ∧ f.idx = 0 then .ok (.unpack f.col)
      else if f.op = 0x03 ∧ f.p2 = 0 ∧ f.p1 = 0 ∧ f.p0 = 0 ∧ f.cnt = 0 then .ok (.setpix f.idx f.col)
      else if f.op = 0x04 ∧ f.p2 = 0 ∧ f.p1 = 0 ∧ f.p0 = 0 ∧ f.cnt = 0 ∧ f.col = 0 then .ok (.getpix f.idx)
      else if f.op = 0x05 ∧ f.p2 = 0 ∧ f.p1 = 0 ∧ f.p0 = 0 then .ok (.fill f.col f.idx f.cnt)
      else if f.op = 0x06 ∧ f.p2 = 0 ∧ f.p1 = 0 ∧ f.p0 = 0 ∧ f.cnt = 0 ∧ f.idx = 0 ∧ f.col = 0 then .ok .clear
      else if f.op = 0x07 ∧ f.p2 = 0 ∧ f.p1 = 0 ∧ f.p0 = 0 ∧ f.cnt = 0 ∧ f.col = 0 then .ok (.resize f.idx)
      else if f.op = 0x08 ∧ f.p2 = 0 ∧ f.p1 = 0 ∧ f.p0 = 0 ∧ f.cnt = 0 ∧ f.idx = 0 ∧ f.col = 0 then .ok .length
      else if f.op = 0x09 ∧ f.p2 = 0 ∧ f.p1 = 0 ∧ f.cnt = 0 ∧ f.idx = 0 ∧ f.col = 0 then .ok (.setbri f.p0)
      else if f.op = 0x0A ∧ f.p2 = 0 ∧ f.p1 = 0 ∧ f.p0 = 0 ∧ f.cnt = 0 ∧ f.idx = 0 ∧ f.col = 0 then .ok .getbri
      else if f.op = 0x0B ∧ f.p2 = 0 ∧ f.p1 = 0 ∧ f.p0 = 0 ∧ f.cnt = 0 ∧ f.col = 0 then .ok (.rdraw f.idx)
      else .error (illegalCause (fieldsWord f)) := by
  have full8 : ∀ x : Byte, x &&& 255#8 = x := fun x => BitVec.and_allOnes (x := x)
  have full16 : ∀ x : Half, x &&& 65535#16 = x := fun x => BitVec.and_allOnes (x := x)
  have full32 : ∀ x : Color, x &&& 4294967295#32 = x := fun x => BitVec.and_allOnes (x := x)
  have split : ∀ w : Request, w = fieldsWord (requestFields w) := fun w => (fieldsWord_requestFields w).symm
  simp only [decode, opcodeTable, decodeRows, OpcodeRow.selects]
  rw [split 0x010000000000000000000000, split 0x020000000000000000000000, split 0x030000000000000000000000,
    split 0x040000000000000000000000, split 0x050000000000000000000000, split 0x060000000000000000000000,
    split 0x070000000000000000000000, split 0x080000000000000000000000, split 0x090000000000000000000000,
    split 0x0A0000000000000000000000, split 0x0B0000000000000000000000, split 0xFF000000FFFFFFFFFFFFFFFF,
    split 0xFFFFFFFFFFFFFFFF00000000, split 0xFFFFFFFFFFFF000000000000, split 0xFFFFFFFFFFFF0000FFFFFFFF,
    split 0xFFFFFFFF0000000000000000, split 0xFFFFFFFFFFFFFFFFFFFFFFFF, split 0xFFFFFF00FFFFFFFFFFFFFFFF]
  simp only [mask_beq, requestFields_fieldsWord]
  simp only [requestFields, BitVec.reduceExtractLsb', full8, full16, full32, BitVec.and_zero, true_and, and_true,
    BitVec.ofNat_eq_ofNat, decide_eq_true_iff]

end Sys2Proof
end

