-- ==== Sys2Proof/Laws/Memory.lean ====
section
/-!
SUPPORT. The laws of the pixel memory: every operation keeps the canonical form, and what a read gives after each.
-/

namespace Sys2Proof.Machine

@[simp] theorem Memory.read_nil (a : Nat) : Memory.read [] a = 0 := rfl

theorem Memory.read_cons (b : Nat) (v : Byte) (m : Memory) (a : Nat) :
    Memory.read ((b, v) :: m) a = if a = b then v else Memory.read m a := rfl

theorem Memory.wf_nil : Memory.wf [] := by simp [Memory.wf]

theorem Memory.wf_cons {c : Host.Cell} {m : Memory} :
    Memory.wf (c :: m) ↔ (∀ d ∈ m, c.1 < d.1) ∧ c.2 ≠ 0 ∧ Memory.wf m := by
  simp only [Memory.wf, Memory.unlisted, List.pairwise_cons, List.mem_cons, forall_eq_or_imp]
  tauto

/-- A byte that no cell lists reads as 0. -/
theorem Memory.read_of_not_listed {m : Memory} {a : Nat} (h : ∀ c ∈ m, c.1 ≠ a) : Memory.read m a = 0 := by
  induction m with
  | nil => rfl
  | cons c m ih =>
    obtain ⟨b, v⟩ := c
    have hb : a ≠ b := fun e => h (b, v) (by simp) e.symm
    rw [Memory.read_cons, if_neg hb]
    exact ih fun d hd => h d (by simp [hd])

/-- Below every listed address a read gives 0. -/
theorem Memory.read_of_lt {m : Memory} {a : Nat} (h : ∀ c ∈ m, a < c.1) : Memory.read m a = 0 :=
  Memory.read_of_not_listed fun c hc => (h c hc).ne'

/-- In the canonical form a listed cell is what a read gives. -/
theorem Memory.read_of_mem {m : Memory} (hm : Memory.wf m) {c : Host.Cell} (hc : c ∈ m) : Memory.read m c.1 = c.2 := by
  induction m with
  | nil => simp at hc
  | cons d m ih =>
    obtain ⟨b, v⟩ := d
    obtain ⟨hlt, -, hw⟩ := Memory.wf_cons.1 hm
    rcases List.mem_cons.1 hc with rfl | hc
    · simp [Memory.read_cons]
    · have hb : b < c.1 := hlt c hc
      rw [Memory.read_cons, if_neg hb.ne', ih hw hc]

/-! ### One cell in front -/

theorem Memory.mem_consCell {a : Nat} {v : Byte} {m : Memory} {c : Host.Cell} (h : c ∈ Memory.consCell a v m) :
    c = (a, v) ∨ c ∈ m := by
  unfold Memory.consCell at h
  split at h
  · exact .inr h
  · simpa using h

theorem Memory.consCell_wf {a : Nat} {v : Byte} {m : Memory} (hm : Memory.wf m) (ha : ∀ c ∈ m, a < c.1) :
    Memory.wf (Memory.consCell a v m) := by
  unfold Memory.consCell
  split
  · exact hm
  · next hv => exact Memory.wf_cons.2 ⟨ha, hv, hm⟩

theorem Memory.read_consCell {a : Nat} {v : Byte} {m : Memory} (ha : ∀ c ∈ m, a < c.1) (b : Nat) :
    Memory.read (Memory.consCell a v m) b = if b = a then v else Memory.read m b := by
  unfold Memory.consCell
  split
  · next hv =>
    split
    · next hb => rw [hb, Memory.read_of_lt ha, hv]; rfl
    · rfl
  · rfl

/-! ### One byte -/

theorem Memory.mem_write {m : Memory} {a : Nat} {v : Byte} {c : Host.Cell} (h : c ∈ Memory.write m a v) :
    c = (a, v) ∨ c ∈ m := by
  induction m with
  | nil => exact Memory.mem_consCell h
  | cons d m ih =>
    obtain ⟨b, u⟩ := d
    rw [Memory.write] at h
    split at h
    · exact Memory.mem_consCell h
    · split at h
      · rcases Memory.mem_consCell h with h | h
        · exact .inl h
        · exact .inr (List.mem_cons_of_mem _ h)
      · rcases List.mem_cons.1 h with h | h
        · exact .inr (by simp [h])
        · exact (ih h).imp id fun h => List.mem_cons_of_mem _ h

/-- A write keeps the canonical form. -/
theorem Memory.write_wf {m : Memory} (hm : Memory.wf m) (a : Nat) (v : Byte) : Memory.wf (Memory.write m a v) := by
  induction m with
  | nil => exact Memory.consCell_wf hm (by simp)
  | cons d m ih =>
    obtain ⟨b, u⟩ := d
    obtain ⟨hlt, hu, hw⟩ := Memory.wf_cons.1 hm
    rw [Memory.write]
    split
    · next hab =>
      refine Memory.consCell_wf hm fun c hc => ?_
      rcases List.mem_cons.1 hc with rfl | hc
      · exact hab
      · exact hab.trans (hlt c hc)
    · split
      · next hab => exact Memory.consCell_wf hw fun c hc => hab ▸ hlt c hc
      · refine Memory.wf_cons.2 ⟨fun c hc => ?_, hu, ih hw⟩
        rcases Memory.mem_write hc with rfl | hc
        · show b < a
          omega
        · exact hlt c hc

/-- What a read gives after a write: the byte written at its address, and at every other address what it gave before. -/
theorem Memory.read_write {m : Memory} (hm : Memory.wf m) (a : Nat) (v : Byte) (b : Nat) :
    Memory.read (Memory.write m a v) b = if b = a then v else Memory.read m b := by
  induction m with
  | nil => exact Memory.read_consCell (by simp) b
  | cons d m ih =>
    obtain ⟨e, u⟩ := d
    obtain ⟨hlt, hu, hw⟩ := Memory.wf_cons.1 hm
    rw [Memory.write]
    split
    · next hae =>
      refine Memory.read_consCell (fun c hc => ?_) b
      rcases List.mem_cons.1 hc with rfl | hc
      · exact hae
      · exact hae.trans (hlt c hc)
    · split
      · next hae =>
        subst hae
        rw [Memory.read_consCell hlt, Memory.read_cons]
        split <;> simp_all
      · next hae =>
        rw [Memory.read_cons, Memory.read_cons, ih hw]
        by_cases hb : b = e
        · subst hb
          rw [if_pos rfl, if_neg (by omega), if_pos rfl]
        · simp [hb]

/-! ### Entries -/

theorem Memory.writeEntry_wf {m : Memory} (hm : Memory.wf m) (i : Nat) (x : Rgb) : Memory.wf (Memory.writeEntry m i x) :=
  Memory.write_wf (Memory.write_wf (Memory.write_wf hm _ _) _ _) _ _

/-- What a read gives after an entry is written: its three channels at its three addresses, and nothing else changes. -/
theorem Memory.read_writeEntry {m : Memory} (hm : Memory.wf m) (i : Nat) (x : Rgb) (b : Nat) :
    Memory.read (Memory.writeEntry m i x) b =
      if b = entryAddr i then x.red else if b = entryAddr i + 1 then x.green
      else if b = entryAddr i + 2 then x.blue else Memory.read m b := by
  have h1 := Memory.write_wf hm (entryAddr i) x.red
  have h2 := Memory.write_wf h1 (entryAddr i + 1) x.green
  rw [Memory.writeEntry, Memory.read_write h2, Memory.read_write h1, Memory.read_write hm]
  split_ifs <;> first | rfl | omega

/-- An entry written is read back. -/
theorem Memory.readEntry_writeEntry {m : Memory} (hm : Memory.wf m) (i : Nat) (x : Rgb) :
    Memory.readEntry (Memory.writeEntry m i x) i = x := by
  simp [Memory.readEntry, Memory.read_writeEntry hm]

theorem Memory.mem_writeEntry {m : Memory} {i : Nat} {x : Rgb} {c : Host.Cell} (h : c ∈ Memory.writeEntry m i x) :
    (entryAddr i ≤ c.1 ∧ c.1 ≤ entryAddr i + 2) ∨ c ∈ m := by
  rcases Memory.mem_write h with rfl | h
  · exact .inl ⟨by simp, by simp⟩
  · rcases Memory.mem_write h with rfl | h
    · exact .inl ⟨by simp, by simp⟩
    · rcases Memory.mem_write h with rfl | h
      · exact .inl ⟨by simp, by simp⟩
      · exact .inr h

theorem Memory.writeEntries_wf {m : Memory} (hm : Memory.wf m) (first n : Nat) (x : Rgb) :
    Memory.wf (Memory.writeEntries m first n x) := by
  induction n generalizing first with
  | zero => exact hm
  | succ n ih => exact Memory.writeEntry_wf (ih _) _ _

/-- What a read gives after a range of entries is written: byte `b` belongs to entry `b / 3`, and holds that entry's
channel `b % 3` where the entry is in the range. -/
theorem Memory.read_writeEntries {m : Memory} (hm : Memory.wf m) (first n : Nat) (x : Rgb) (b : Nat) :
    Memory.read (Memory.writeEntries m first n x) b =
      if first ≤ b / 3 ∧ b / 3 < first + n then
        (if b % 3 = 0 then x.red else if b % 3 = 1 then x.green else x.blue)
      else Memory.read m b := by
  induction n generalizing first with
  | zero => rw [if_neg (by omega)]; rfl
  | succ n ih =>
    rw [Memory.writeEntries, Memory.read_writeEntry (Memory.writeEntries_wf hm _ _ _), ih]
    unfold entryAddr
    split_ifs <;> first | rfl | omega

theorem Memory.mem_writeEntries {m : Memory} {first n : Nat} {x : Rgb} {c : Host.Cell}
    (h : c ∈ Memory.writeEntries m first n x) :
    (entryAddr first ≤ c.1 ∧ c.1 < entryAddr (first + n)) ∨ c ∈ m := by
  induction n generalizing first with
  | zero => exact .inr h
  | succ n ih =>
    rcases Memory.mem_writeEntry h with h | h
    · unfold entryAddr at *
      exact .inl ⟨by omega, by omega⟩
    · refine (ih h).imp (fun h => ?_) id
      unfold entryAddr at *
      exact ⟨by omega, by omega⟩

/-! ### The whole live range -/

theorem Memory.zeroBelow_wf {m : Memory} (hm : Memory.wf m) (bound : Nat) : Memory.wf (Memory.zeroBelow m bound) :=
  ⟨hm.1.filter _, fun c hc => hm.2 c (List.mem_filter.1 hc).1⟩

/-- What a read gives after every byte below `bound` is zeroed. -/
theorem Memory.read_zeroBelow (m : Memory) (bound b : Nat) :
    Memory.read (Memory.zeroBelow m bound) b = if b < bound then 0 else Memory.read m b := by
  induction m with
  | nil => simp [Memory.zeroBelow]
  | cons d m ih =>
    obtain ⟨e, u⟩ := d
    unfold Memory.zeroBelow at ih ⊢
    by_cases he : bound ≤ e
    · rw [List.filter_cons_of_pos (by simpa using he), Memory.read_cons, Memory.read_cons, ih]
      split_ifs <;> first | rfl | omega
    · rw [List.filter_cons_of_neg (by simpa using he), ih, Memory.read_cons]
      split_ifs <;> first | rfl | omega

theorem Memory.mem_mapBelow {f : Byte → Byte} {bound : Nat} {m : Memory} {c : Host.Cell}
    (h : c ∈ Memory.mapBelow f bound m) : ∃ d ∈ m, d.1 = c.1 := by
  induction m with
  | nil => simp [Memory.mapBelow] at h
  | cons d m ih =>
    obtain ⟨e, u⟩ := d
    rw [Memory.mapBelow] at h
    have hin : c.1 = e ∨ c ∈ Memory.mapBelow f bound m := by
      split at h
      · exact (Memory.mem_consCell h).imp (fun h => by rw [h]) id
      · exact (List.mem_cons.1 h).imp (fun h => by rw [h]) id
    rcases hin with h | h
    · exact ⟨(e, u), by simp, h.symm⟩
    · obtain ⟨d, hd, hdc⟩ := ih h
      exact ⟨d, List.mem_cons_of_mem _ hd, hdc⟩

theorem Memory.mapBelow_lt {f : Byte → Byte} {bound : Nat} {m : Memory} {e : Nat} (h : ∀ d ∈ m, e < d.1) :
    ∀ c ∈ Memory.mapBelow f bound m, e < c.1 := fun _ hc =>
  let ⟨d, hd, hdc⟩ := Memory.mem_mapBelow hc
  hdc ▸ h d hd

theorem Memory.mapBelow_wf {m : Memory} (hm : Memory.wf m) (f : Byte → Byte) (bound : Nat) :
    Memory.wf (Memory.mapBelow f bound m) := by
  induction m with
  | nil => exact Memory.wf_nil
  | cons d m ih =>
    obtain ⟨e, u⟩ := d
    obtain ⟨hlt, hu, hw⟩ := Memory.wf_cons.1 hm
    rw [Memory.mapBelow]
    split
    · exact Memory.consCell_wf (ih hw) (Memory.mapBelow_lt hlt)
    · exact Memory.wf_cons.2 ⟨Memory.mapBelow_lt hlt, hu, ih hw⟩

/-- What a read gives after `f`, which maps 0 to 0, is applied to every byte below `bound`. -/
theorem Memory.read_mapBelow {m : Memory} (hm : Memory.wf m) {f : Byte → Byte} (hf : f 0 = 0) (bound b : Nat) :
    Memory.read (Memory.mapBelow f bound m) b = if b < bound then f (Memory.read m b) else Memory.read m b := by
  induction m with
  | nil =>
    rw [Memory.mapBelow, Memory.read_nil, hf, ite_self]
  | cons d m ih =>
    obtain ⟨e, u⟩ := d
    obtain ⟨hlt, hu, hw⟩ := Memory.wf_cons.1 hm
    rw [Memory.mapBelow, Memory.read_cons]
    split
    · rw [Memory.read_consCell (Memory.mapBelow_lt hlt), ih hw]
      split_ifs <;> first | rfl | omega
    · rw [Memory.read_cons, ih hw]
      split_ifs <;> first | rfl | omega

@[simp] theorem Memory.mapBelow_zero (f : Byte → Byte) (m : Memory) : Memory.mapBelow f 0 m = m := by
  induction m with
  | nil => rfl
  | cons d m ih => simp [Memory.mapBelow, ih]

@[simp] theorem Memory.zeroBelow_zero (m : Memory) : Memory.zeroBelow m 0 = m := by
  simp [Memory.zeroBelow]

/-! ### Equal bytes are equal memories -/

/-- Two memories in canonical form that read the same everywhere are equal. -/
theorem Memory.eq_of_read {m n : Memory} (hm : Memory.wf m) (hn : Memory.wf n)
    (h : ∀ a, Memory.read m a = Memory.read n a) : m = n := by
  induction m generalizing n with
  | nil =>
    cases n with
    | nil => rfl
    | cons d n =>
      obtain ⟨b, v⟩ := d
      obtain ⟨-, hd, -⟩ := Memory.wf_cons.1 hn
      exact absurd (by simpa [Memory.read_cons] using (h b).symm) hd
  | cons c m ih =>
    obtain ⟨a, u⟩ := c
    obtain ⟨hlt, hc, hw⟩ := Memory.wf_cons.1 hm
    cases n with
    | nil => exact absurd (by simpa [Memory.read_cons] using h a) hc
    | cons d n =>
      obtain ⟨b, v⟩ := d
      obtain ⟨hlt', hd, hw'⟩ := Memory.wf_cons.1 hn
      have hab : a = b := by
        by_contra hne
        rcases Nat.lt_or_gt_of_ne hne with hlt₁ | hlt₁
        · have := h a
          rw [Memory.read_cons, if_pos rfl, Memory.read_cons, if_neg (by omega),
            Memory.read_of_lt fun c hc => hlt₁.trans (hlt' c hc)] at this
          exact hc this
        · have := h b
          rw [Memory.read_cons, if_neg (by omega), Memory.read_cons, if_pos rfl,
            Memory.read_of_lt fun c hc => hlt₁.trans (hlt c hc)] at this
          exact hd this.symm
      subst hab
      have huv : u = v := by simpa [Memory.read_cons] using h a
      subst huv
      congr 1
      refine ih hw hw' fun e => ?_
      by_cases he : e = a
      · subst he
        rw [Memory.read_of_lt hlt, Memory.read_of_lt hlt']
      · simpa [Memory.read_cons, he] using h e

end Sys2Proof.Machine
end

