-- ==== Sys2Proof/Laws/Operands.lean ====
section
/-!
SUPPORT. The operand forms and the arithmetic, each said once on natural numbers.
-/

namespace Sys2Proof.Machine

/-- Two vectors side by side, as a number. -/
theorem toNat_append_eq_add {m n : Nat} (x : BitVec m) (y : BitVec n) :
    (x ++ y).toNat = x.toNat * 2 ^ n + y.toNat := by
  rw [BitVec.toNat_append, ← Nat.shiftLeft_add_eq_or_of_lt y.isLt, Nat.shiftLeft_eq]

/-- A packed colour as a number: its lanes do not overlap, and the top lane is 0 (R80, R85). -/
theorem packColor_toNat (x : Rgb) :
    (packColor x).toNat = x.red.toNat * 65536 + x.green.toNat * 256 + x.blue.toNat := by
  obtain ⟨r, g, b⟩ := x
  have hr := r.isLt
  have hg := g.isLt
  have hb := b.isLt
  have h1 : (r.toNat <<< 16 ||| g.toNat <<< 8) = (r.toNat * 256 + g.toNat) <<< 8 := by
    rw [← Nat.shiftLeft_add_eq_or_of_lt (by rw [Nat.shiftLeft_eq]; omega)]
    simp only [Nat.shiftLeft_eq]
    omega
  simp only [packColor, BitVec.toNat_or, BitVec.toNat_shiftLeft, BitVec.toNat_setWidth]
  rw [Nat.mod_eq_of_lt (a := r.toNat) (by omega), Nat.mod_eq_of_lt (a := g.toNat) (by omega),
    Nat.mod_eq_of_lt (a := b.toNat) (by omega), Nat.mod_eq_of_lt (by rw [Nat.shiftLeft_eq]; omega),
    Nat.mod_eq_of_lt (by rw [Nat.shiftLeft_eq]; omega), h1, ← Nat.shiftLeft_add_eq_or_of_lt hb, Nat.shiftLeft_eq]
  omega

/-- The channels of a packed colour as numbers (R81). -/
theorem unpackColor_toNat (c : Color) :
    (unpackColor c).red.toNat = c.toNat / 65536 % 256 ∧ (unpackColor c).green.toNat = c.toNat / 256 % 256 ∧
      (unpackColor c).blue.toNat = c.toNat % 256 := by
  simp [unpackColor, BitVec.extractLsb'_toNat, Nat.shiftRight_eq_div_pow]

/-- A response word as a number (R63). -/
theorem responseWord_toNat (r : Response) :
    (responseWord r).toNat =
      r.ill.toNat * 2 ^ 56 + r.ur.toNat * 2 ^ 48 + r.ug.toNat * 2 ^ 40 + r.ub.toNat * 2 ^ 32 + r.data.toNat := by
  have h : (responseWord r).toNat =
      (0#7 ++ BitVec.ofBool r.ill ++ r.ur ++ r.ug ++ r.ub ++ r.data).toNat := rfl
  rw [h]
  simp only [toNat_append_eq_add, BitVec.toNat_ofNat, BitVec.toNat_ofBool]
  omega

/-- At the unset brightness a channel is written as it is (R90). -/
@[simp] theorem wscale_unset (ch : Byte) : wscale ch 0#8 = ch := rfl

/-- At the unset brightness a byte is read as it is (R91). -/
@[simp] theorem rscale_unset (p : Byte) : rscale p 0#8 = p := rfl

/-- The write scale at a set brightness: the exact product over 256, which a byte holds (R90). -/
theorem wscale_toNat {ch s : Byte} (hs : s ≠ 0) : (wscale ch s).toNat = ch.toNat * s.toNat / 2 ^ 8 := by
  have h : ch.toNat * s.toNat ≤ 255 * 255 :=
    Nat.mul_le_mul (Nat.le_of_lt_succ ch.isLt) (Nat.le_of_lt_succ s.isLt)
  rw [wscale, if_neg hs, BitVec.toNat_ofNat, Nat.mod_eq_of_lt (by omega)]

/-- The read inversion at a set brightness: the floor quotient, its low 8 bits (R91). -/
theorem rscale_toNat {p s : Byte} (hs : s ≠ 0) : (rscale p s).toNat = p.toNat * 2 ^ 8 / s.toNat % 2 ^ 8 := by
  rw [rscale, if_neg hs, BitVec.toNat_ofNat]

/-- The rescale of a byte: the exact product over 256, its low 8 bits (R124). -/
theorem rescaleByte_toNat (k : Half) (p : Byte) : (rescaleByte k p).toNat = p.toNat * k.toNat / 2 ^ 8 % 2 ^ 8 := by
  rw [rescaleByte, BitVec.toNat_ofNat]

/-- A byte 0 is rescaled to 0 by every ratio. -/
@[simp] theorem rescaleByte_zero (k : Half) : rescaleByte k 0#8 = 0#8 := by
  simp [rescaleByte]

/-- The end of a FILL is within the buffer (R94). -/
theorem fillEnd_le_len (first count len : Half) : fillEnd first count len ≤ len.toNat := by
  unfold fillEnd
  split
  · exact le_rfl
  · exact min_le_right _ _

/-- An allocation stays within the capacity (R98). -/
theorem allocLen_le (p : Params) (n : Half) : (allocLen p n).toNat ≤ p.maxPixels.val := by
  unfold allocLen
  split
  · assumption
  · exact Nat.zero_le _

/-- The response of a command that writes `DATA` alone is `DATA` in the low half (R63). -/
theorem responseWord_data (d : Color) : responseWord (dataResponse d) = d.setWidth 64 := by
  apply BitVec.eq_of_toNat_eq
  rw [responseWord_toNat, BitVec.toNat_setWidth, Nat.mod_eq_of_lt (by omega)]
  simp [dataResponse]

/-- The response of a command that writes no field is 0 (R63). -/
@[simp] theorem responseWord_empty : responseWord emptyResponse = 0 := by decide

/-- The response of an illegal request (R141). -/
@[simp] theorem responseWord_illegal : responseWord illegalResponse = 0x0100000000000000 := by decide

end Sys2Proof.Machine
end

