-- ==== Sys2Proof/Laws/State.lean ====
section
/-!
SUPPORT. What each named update of the state does to each field: one lemma per field per update.
-/

namespace Sys2Proof.Machine

@[simp] theorem State.setPix_params (s : State) (m : Memory) : (s.setPix m).params = s.params := rfl
@[simp] theorem State.setPix_pix (s : State) (m : Memory) : (s.setPix m).pix = m := rfl
@[simp] theorem State.setPix_len (s : State) (m : Memory) : (s.setPix m).len = s.len := rfl
@[simp] theorem State.setPix_brt (s : State) (m : Memory) : (s.setPix m).brt = s.brt := rfl
@[simp] theorem State.setPix_inReset (s : State) (m : Memory) : (s.setPix m).inReset = s.inReset := rfl
@[simp] theorem State.setPix_inputs (s : State) (m : Memory) : (s.setPix m).inputs = s.inputs := rfl
@[simp] theorem State.setPix_responses (s : State) (m : Memory) : (s.setPix m).responses = s.responses := rfl

@[simp] theorem State.setLen_params (s : State) (n : Half) : (s.setLen n).params = s.params := rfl
@[simp] theorem State.setLen_pix (s : State) (n : Half) : (s.setLen n).pix = s.pix := rfl
@[simp] theorem State.setLen_len (s : State) (n : Half) : (s.setLen n).len = n := rfl
@[simp] theorem State.setLen_brt (s : State) (n : Half) : (s.setLen n).brt = s.brt := rfl
@[simp] theorem State.setLen_inReset (s : State) (n : Half) : (s.setLen n).inReset = s.inReset := rfl
@[simp] theorem State.setLen_inputs (s : State) (n : Half) : (s.setLen n).inputs = s.inputs := rfl
@[simp] theorem State.setLen_responses (s : State) (n : Half) : (s.setLen n).responses = s.responses := rfl

@[simp] theorem State.setBrt_params (s : State) (b : Byte) : (s.setBrt b).params = s.params := rfl
@[simp] theorem State.setBrt_pix (s : State) (b : Byte) : (s.setBrt b).pix = s.pix := rfl
@[simp] theorem State.setBrt_len (s : State) (b : Byte) : (s.setBrt b).len = s.len := rfl
@[simp] theorem State.setBrt_brt (s : State) (b : Byte) : (s.setBrt b).brt = b := rfl
@[simp] theorem State.setBrt_inReset (s : State) (b : Byte) : (s.setBrt b).inReset = s.inReset := rfl
@[simp] theorem State.setBrt_inputs (s : State) (b : Byte) : (s.setBrt b).inputs = s.inputs := rfl
@[simp] theorem State.setBrt_responses (s : State) (b : Byte) : (s.setBrt b).responses = s.responses := rfl

@[simp] theorem State.setInReset_params (s : State) (b : Bool) : (s.setInReset b).params = s.params := rfl
@[simp] theorem State.setInReset_pix (s : State) (b : Bool) : (s.setInReset b).pix = s.pix := rfl
@[simp] theorem State.setInReset_len (s : State) (b : Bool) : (s.setInReset b).len = s.len := rfl
@[simp] theorem State.setInReset_brt (s : State) (b : Bool) : (s.setInReset b).brt = s.brt := rfl
@[simp] theorem State.setInReset_inReset (s : State) (b : Bool) : (s.setInReset b).inReset = b := rfl
@[simp] theorem State.setInReset_inputs (s : State) (b : Bool) : (s.setInReset b).inputs = s.inputs := rfl
@[simp] theorem State.setInReset_responses (s : State) (b : Bool) : (s.setInReset b).responses = s.responses := rfl

@[simp] theorem State.setInputs_params (s : State) (l : List HostInput) : (s.setInputs l).params = s.params := rfl
@[simp] theorem State.setInputs_pix (s : State) (l : List HostInput) : (s.setInputs l).pix = s.pix := rfl
@[simp] theorem State.setInputs_len (s : State) (l : List HostInput) : (s.setInputs l).len = s.len := rfl
@[simp] theorem State.setInputs_brt (s : State) (l : List HostInput) : (s.setInputs l).brt = s.brt := rfl
@[simp] theorem State.setInputs_inReset (s : State) (l : List HostInput) : (s.setInputs l).inReset = s.inReset := rfl
@[simp] theorem State.setInputs_inputs (s : State) (l : List HostInput) : (s.setInputs l).inputs = l := rfl
@[simp] theorem State.setInputs_responses (s : State) (l : List HostInput) : (s.setInputs l).responses = s.responses := rfl

@[simp] theorem State.respond_params (s : State) (r : Response) : (s.respond r).params = s.params := rfl
@[simp] theorem State.respond_pix (s : State) (r : Response) : (s.respond r).pix = s.pix := rfl
@[simp] theorem State.respond_len (s : State) (r : Response) : (s.respond r).len = s.len := rfl
@[simp] theorem State.respond_brt (s : State) (r : Response) : (s.respond r).brt = s.brt := rfl
@[simp] theorem State.respond_inReset (s : State) (r : Response) : (s.respond r).inReset = s.inReset := rfl
@[simp] theorem State.respond_inputs (s : State) (r : Response) : (s.respond r).inputs = s.inputs := rfl
@[simp] theorem State.respond_responses (s : State) (r : Response) : (s.respond r).responses = s.responses ++ [responseWord r] := rfl

/-! ### Allocation and reset -/

@[simp] theorem State.allocate_params (s : State) (n : Half) : (s.allocate n).params = s.params := rfl
@[simp] theorem State.allocate_pix (s : State) (n : Half) : (s.allocate n).pix = [] := rfl
@[simp] theorem State.allocate_len (s : State) (n : Half) : (s.allocate n).len = allocLen s.params n := rfl
@[simp] theorem State.allocate_brt (s : State) (n : Half) : (s.allocate n).brt = s.brt := rfl
@[simp] theorem State.allocate_inReset (s : State) (n : Half) : (s.allocate n).inReset = s.inReset := rfl
@[simp] theorem State.allocate_inputs (s : State) (n : Half) : (s.allocate n).inputs = s.inputs := rfl
@[simp] theorem State.allocate_responses (s : State) (n : Half) : (s.allocate n).responses = s.responses := rfl

@[simp] theorem State.resetBlock_params (s : State) : s.resetBlock.params = s.params := rfl
@[simp] theorem State.resetBlock_pix (s : State) : s.resetBlock.pix = [] := rfl
@[simp] theorem State.resetBlock_len (s : State) : s.resetBlock.len = allocLen s.params (BitVec.ofFin s.params.initLen) := rfl
@[simp] theorem State.resetBlock_brt (s : State) : s.resetBlock.brt = 0 := rfl
@[simp] theorem State.resetBlock_inReset (s : State) : s.resetBlock.inReset = s.inReset := rfl
@[simp] theorem State.resetBlock_inputs (s : State) : s.resetBlock.inputs = s.inputs := rfl
@[simp] theorem State.resetBlock_responses (s : State) : s.resetBlock.responses = s.responses := rfl

@[simp] theorem State.rejectIllegal_params (s : State) : s.rejectIllegal.params = s.params := rfl
@[simp] theorem State.rejectIllegal_pix (s : State) : s.rejectIllegal.pix = s.pix := rfl
@[simp] theorem State.rejectIllegal_len (s : State) : s.rejectIllegal.len = s.len := rfl
@[simp] theorem State.rejectIllegal_brt (s : State) : s.rejectIllegal.brt = s.brt := rfl
@[simp] theorem State.rejectIllegal_inReset (s : State) : s.rejectIllegal.inReset = s.inReset := rfl
@[simp] theorem State.rejectIllegal_inputs (s : State) : s.rejectIllegal.inputs = s.inputs := rfl
@[simp] theorem State.rejectIllegal_responses (s : State) : s.rejectIllegal.responses = s.responses ++ [responseWord illegalResponse] := rfl

/-! ### The conditional writes leave every other field alone -/

@[simp] theorem State.writePixel_params (s : State) (i : Half) (c : Color) : (s.writePixel i c).params = s.params := by
  unfold State.writePixel; split <;> rfl
@[simp] theorem State.writePixel_len (s : State) (i : Half) (c : Color) : (s.writePixel i c).len = s.len := by
  unfold State.writePixel; split <;> rfl
@[simp] theorem State.writePixel_brt (s : State) (i : Half) (c : Color) : (s.writePixel i c).brt = s.brt := by
  unfold State.writePixel; split <;> rfl
@[simp] theorem State.writePixel_inReset (s : State) (i : Half) (c : Color) : (s.writePixel i c).inReset = s.inReset := by
  unfold State.writePixel; split <;> rfl
@[simp] theorem State.writePixel_inputs (s : State) (i : Half) (c : Color) : (s.writePixel i c).inputs = s.inputs := by
  unfold State.writePixel; split <;> rfl
@[simp] theorem State.writePixel_responses (s : State) (i : Half) (c : Color) : (s.writePixel i c).responses = s.responses := by
  unfold State.writePixel; split <;> rfl

@[simp] theorem State.fillPixels_params (s : State) (c : Color) (first count : Half) : (s.fillPixels c first count).params = s.params := by
  unfold State.fillPixels; split <;> rfl
@[simp] theorem State.fillPixels_len (s : State) (c : Color) (first count : Half) : (s.fillPixels c first count).len = s.len := by
  unfold State.fillPixels; split <;> rfl
@[simp] theorem State.fillPixels_brt (s : State) (c : Color) (first count : Half) : (s.fillPixels c first count).brt = s.brt := by
  unfold State.fillPixels; split <;> rfl
@[simp] theorem State.fillPixels_inReset (s : State) (c : Color) (first count : Half) : (s.fillPixels c first count).inReset = s.inReset := by
  unfold State.fillPixels; split <;> rfl
@[simp] theorem State.fillPixels_inputs (s : State) (c : Color) (first count : Half) : (s.fillPixels c first count).inputs = s.inputs := by
  unfold State.fillPixels; split <;> rfl
@[simp] theorem State.fillPixels_responses (s : State) (c : Color) (first count : Half) : (s.fillPixels c first count).responses = s.responses := by
  unfold State.fillPixels; split <;> rfl

@[simp] theorem State.rescale_params (s : State) (v : Byte) : (s.rescale v).params = s.params := by
  unfold State.rescale; split <;> rfl
@[simp] theorem State.rescale_len (s : State) (v : Byte) : (s.rescale v).len = s.len := by
  unfold State.rescale; split <;> rfl
@[simp] theorem State.rescale_inReset (s : State) (v : Byte) : (s.rescale v).inReset = s.inReset := by
  unfold State.rescale; split <;> rfl
@[simp] theorem State.rescale_inputs (s : State) (v : Byte) : (s.rescale v).inputs = s.inputs := by
  unfold State.rescale; split <;> rfl
@[simp] theorem State.rescale_responses (s : State) (v : Byte) : (s.rescale v).responses = s.responses := by
  unfold State.rescale; split <;> rfl

/-- SETBRI leaves the requested brightness in stored form, a no-op included. -/
@[simp] theorem State.rescale_brt (s : State) (v : Byte) : (s.rescale v).brt = storedBrightness v := by
  unfold State.rescale
  split
  · next h => exact h.symm
  · rfl

@[simp] theorem State.liveBytes_setPix (s : State) (m : Memory) : (s.setPix m).liveBytes = s.liveBytes := rfl

@[simp] theorem State.liveBytes_setBrt (s : State) (b : Byte) : (s.setBrt b).liveBytes = s.liveBytes := rfl

@[simp] theorem State.liveBytes_respond (s : State) (r : Response) : (s.respond r).liveBytes = s.liveBytes := rfl

end Sys2Proof.Machine
end

