-- ==== Sys2Proof/Laws/Ops.lean ====
section
/-!
SUPPORT. What each shared operation does, said once: the two outcomes of a conditional write, the bytes it leaves, and
what taking an input can do.
-/

namespace Sys2Proof.Machine

/-- A pixel write is the entry's write, or nothing (R92). -/
theorem State.writePixel_cases (s : State) (i : Half) (c : Color) :
    (i < s.len ∧ s.writePixel i c = s.setPix (Memory.writeEntry s.pix i.toNat (s.scaledColor c))) ∨
      (¬ i < s.len ∧ s.writePixel i c = s) := by
  unfold State.writePixel
  split
  · next h => exact .inl ⟨h, rfl⟩
  · next h => exact .inr ⟨h, rfl⟩

/-- A fill is the write of the entries `[first, end)`, or nothing (R94). -/
theorem State.fillPixels_cases (s : State) (c : Color) (first count : Half) :
    (first < s.len ∧
        s.fillPixels c first count =
          s.setPix (Memory.writeEntries s.pix first.toNat (fillEnd first count s.len - first.toNat)
            (s.scaledColor c))) ∨
      (¬ first < s.len ∧ s.fillPixels c first count = s) := by
  unfold State.fillPixels
  split
  · next h => exact .inl ⟨h, rfl⟩
  · next h => exact .inr ⟨h, rfl⟩

/-- A pixel read is the packed entry, or black (R93, R99). -/
theorem State.readPixel_cases (s : State) (f : Byte → Byte) (i : Half) :
    (i < s.len ∧ s.readPixel f i = packColor (mapChannels f (Memory.readEntry s.pix i.toNat))) ∨
      (¬ i < s.len ∧ s.readPixel f i = 0) := by
  unfold State.readPixel
  split
  · next h => exact .inl ⟨h, rfl⟩
  · next h => exact .inr ⟨h, rfl⟩

/-- A rescale is nothing, or every live byte by the one ratio and then `BRT` (R122, R125). -/
theorem State.rescale_cases (s : State) (v : Byte) :
    (storedBrightness v = s.brt ∧ s.rescale v = s) ∨
      (storedBrightness v ≠ s.brt ∧
        s.rescale v =
          (s.setPix (Memory.mapBelow (rescaleByte (rescaleRatio s.brt v)) s.liveBytes s.pix)).setBrt
            (storedBrightness v)) := by
  unfold State.rescale
  split
  · next h => exact .inl ⟨h, rfl⟩
  · next h => exact .inr ⟨h, rfl⟩

/-- The byte that reading an address gives after a pixel write (R92). -/
theorem State.read_writePixel {s : State} (hw : Memory.wf s.pix) (i : Half) (c : Color) (a : Nat) :
    Memory.read (s.writePixel i c).pix a =
      if i < s.len then
        if a = entryAddr i.toNat then (s.scaledColor c).red
        else if a = entryAddr i.toNat + 1 then (s.scaledColor c).green
        else if a = entryAddr i.toNat + 2 then (s.scaledColor c).blue
        else Memory.read s.pix a
      else Memory.read s.pix a := by
  rcases s.writePixel_cases i c with ⟨h, e⟩ | ⟨h, e⟩
  · rw [e, if_pos h, State.setPix_pix, Memory.read_writeEntry hw]
  · rw [e, if_neg h]

/-- The byte that reading an address gives after a fill (R94). -/
theorem State.read_fillPixels {s : State} (hw : Memory.wf s.pix) (c : Color) (first count : Half) (a : Nat) :
    Memory.read (s.fillPixels c first count).pix a =
      if first.toNat ≤ a / 3 ∧ a / 3 < fillEnd first count s.len then
        if a % 3 = 0 then (s.scaledColor c).red
        else if a % 3 = 1 then (s.scaledColor c).green
        else (s.scaledColor c).blue
      else Memory.read s.pix a := by
  have hend := fillEnd_le_len first count s.len
  rcases s.fillPixels_cases c first count with ⟨h, e⟩ | ⟨h, e⟩
  · rw [e, State.setPix_pix, Memory.read_writeEntries hw]
    refine if_congr (and_congr_right fun h1 => ?_) rfl rfl
    omega
  · rw [e, if_neg]
    rw [BitVec.lt_def] at h
    omega

/-- The byte that reading an address gives after a rescale that is not a no-op (R125). -/
theorem State.read_rescale {s : State} (hw : Memory.wf s.pix) {v : Byte} (hv : storedBrightness v ≠ s.brt) (a : Nat) :
    Memory.read (s.rescale v).pix a =
      if a < s.liveBytes then rescaleByte (rescaleRatio s.brt v) (Memory.read s.pix a) else Memory.read s.pix a := by
  rcases s.rescale_cases v with ⟨h, -⟩ | ⟨-, e⟩
  · exact absurd h hv
  · rw [e, State.setBrt_pix, State.setPix_pix, Memory.read_mapBelow hw (rescaleByte_zero _)]

/-! ### The canonical form is kept -/

theorem State.writePixel_wf {s : State} (hw : Memory.wf s.pix) (i : Half) (c : Color) :
    Memory.wf (s.writePixel i c).pix := by
  rcases s.writePixel_cases i c with ⟨-, e⟩ | ⟨-, e⟩ <;> rw [e]
  · exact Memory.writeEntry_wf hw _ _
  · exact hw

theorem State.fillPixels_wf {s : State} (hw : Memory.wf s.pix) (c : Color) (first count : Half) :
    Memory.wf (s.fillPixels c first count).pix := by
  rcases s.fillPixels_cases c first count with ⟨-, e⟩ | ⟨-, e⟩ <;> rw [e]
  · exact Memory.writeEntries_wf hw _ _ _
  · exact hw

theorem State.rescale_wf {s : State} (hw : Memory.wf s.pix) (v : Byte) : Memory.wf (s.rescale v).pix := by
  rcases s.rescale_cases v with ⟨-, e⟩ | ⟨-, e⟩ <;> rw [e]
  · exact hw
  · exact Memory.mapBelow_wf hw _ _

/-- Reset's memory has the canonical form. -/
theorem State.reset_wf : Memory.wf State.reset.pix := Memory.wf_nil

/-! ### Taking an input -/

/-- What taking the host's next input can do (R150, R160, R161). -/
theorem State.takeInput_cases (s : State) :
    (s.inputs = [] ∧ s.takeInput = .settled s) ∨
    (∃ w rest, s.inputs = .request w :: rest ∧ s.inReset = true ∧ s.takeInput = .settled (s.setInputs rest)) ∨
    (∃ w rest, s.inputs = .request w :: rest ∧ s.inReset = false ∧ s.takeInput = .command w (s.setInputs rest)) ∨
    (∃ rest, (s.inputs = .assertReset :: rest ∨ ∃ w, s.inputs = .requestCutByReset w :: rest) ∧
      s.takeInput = .settled (((s.setInputs rest).setInReset true).resetBlock)) ∨
    (∃ rest, s.inputs = .releaseReset :: rest ∧ s.takeInput = .settled ((s.setInputs rest).setInReset false)) ∨
    (∃ rest, s.inputs = .powerCycle :: rest ∧ s.takeInput = .settled ((s.setInputs rest).resetBlock)) := by
  unfold State.takeInput
  match hi : s.inputs with
  | [] => simp
  | .request w :: rest => cases hr : s.inReset <;> simp
  | .requestCutByReset w :: rest => simp
  | .assertReset :: rest => simp
  | .releaseReset :: rest => simp
  | .powerCycle :: rest => simp

end Sys2Proof.Machine
end

