-- ==== Sys2Proof/Laws/Exec.lean ====
section
/-!
SUPPORT. The meaning each arm of `exec` calls, and the two ways a step goes.
-/

namespace Sys2Proof.Machine

theorem exec_pack (r g b : Byte) (s : State) :
    exec (.pack r g b) s = .next (s.respond (dataResponse (packColor ⟨r, g, b⟩))) := rfl

theorem exec_unpack (c : Color) (s : State) :
    exec (.unpack c) s = .next (s.respond (channelsResponse (unpackColor c))) := rfl

theorem exec_setpix (i : Half) (c : Color) (s : State) :
    exec (.setpix i c) s = .next ((s.writePixel i c).respond emptyResponse) := rfl

theorem exec_getpix (i : Half) (s : State) :
    exec (.getpix i) s = .next (s.respond (dataResponse (s.readPixel (fun p => rscale p s.brt) i))) := rfl

theorem exec_fill (c : Color) (first count : Half) (s : State) :
    exec (.fill c first count) s = .next ((s.fillPixels c first count).respond emptyResponse) := rfl

theorem exec_clear (s : State) :
    exec .clear s = .next ((s.setPix (Memory.zeroBelow s.pix s.liveBytes)).respond emptyResponse) := rfl

theorem exec_length (s : State) :
    exec .length s = .next (s.respond (dataResponse (s.len.setWidth 32))) := rfl

theorem exec_resize (n : Half) (s : State) :
    exec (.resize n) s = .next ((s.allocate n).respond emptyResponse) := rfl

theorem exec_rdraw (i : Half) (s : State) :
    exec (.rdraw i) s = .next (s.respond (dataResponse (s.readPixel (fun p => p) i))) := rfl

theorem exec_setbri (v : Byte) (s : State) :
    exec (.setbri v) s = .next ((s.rescale v).respond emptyResponse) := rfl

theorem exec_getbri (s : State) :
    exec .getbri s = .next (s.respond (dataResponse ((requestedBrightness s.brt).setWidth 32))) := rfl

/-- A state that changes `PIX`, `LEN` or `BRT` alone and then responds: what every command leaves at the ports. -/
theorem respond_answers {s u : State} (r : Response) (hr : r.ill = false) (hresp : u.responses = s.responses)
    (hports : SamePorts s u) :
    ∃ t r', Host.Outcome.next (φ := Fault) (ρ := Refusal) (u.respond r) = .next t ∧ r'.ill = false ∧
      t.responses = s.responses ++ [responseWord r'] ∧ SamePorts s t :=
  ⟨u.respond r, r, rfl, hr, by rw [State.respond_responses, hresp], ⟨hports.params, hports.inReset, hports.inputs⟩⟩

/-- Every command answers a next state with one response more, whose `ILL` is 0, and leaves the parameters, the reset
input and the host's inputs alone. -/
theorem exec_answers (i : Instr) (s : State) :
    ∃ t r, exec i s = .next t ∧ r.ill = false ∧ t.responses = s.responses ++ [responseWord r] ∧ SamePorts s t := by
  cases i with
  | pack => exact respond_answers _ rfl rfl ⟨rfl, rfl, rfl⟩
  | unpack => exact respond_answers _ rfl rfl ⟨rfl, rfl, rfl⟩
  | setpix => exact respond_answers _ rfl (by simp) ⟨by simp, by simp, by simp⟩
  | getpix => exact respond_answers _ rfl rfl ⟨rfl, rfl, rfl⟩
  | fill => exact respond_answers _ rfl (by simp) ⟨by simp, by simp, by simp⟩
  | clear => exact respond_answers _ rfl rfl ⟨rfl, rfl, rfl⟩
  | resize => exact respond_answers _ rfl rfl ⟨rfl, rfl, rfl⟩
  | length => exact respond_answers _ rfl rfl ⟨rfl, rfl, rfl⟩
  | setbri => exact respond_answers _ rfl (by simp) ⟨by simp, by simp, by simp⟩
  | getbri => exact respond_answers _ rfl rfl ⟨rfl, rfl, rfl⟩
  | rdraw => exact respond_answers _ rfl rfl ⟨rfl, rfl, rfl⟩

/-- A step whose input is dealt with without a command. -/
theorem step_of_settled {s t : State} (h : s.takeInput = .settled t) : step s = .next t := by
  rw [step, h]

/-- A step that takes a request: the command it spells, or the rejection (R66, R141). -/
theorem step_of_command {s t : State} {w : Request} (h : s.takeInput = .command w t) :
    step s = match decode w with
      | .ok i => exec i t
      | .error _ => .next t.rejectIllegal := by
  cases hd : decode w <;> simp [step, h, hd]

end Sys2Proof.Machine
end

