-- ==== Sys2Proof/Laws/PerInstr.lean ====
section
/-!
SUPPORT. What holds of every command as syntax, one lemma per constructor.
-/

namespace Sys2Proof.Laws

/-- The command's request word has exactly the fields the opcode table gives it, and they are well formed: `OP` is the
command's, its operands stand in their fields, every must-be-0 field is 0 (R64). -/
def EncodedFields.Statement (i : Instr) : Prop :=
  requestFields (encode i) = instrFields i ∧ (instrFields i).wellFormed = true

theorem EncodedFields.pack (r g b : Byte) : EncodedFields.Statement (.pack r g b) :=
  ⟨requestFields_fieldsWord _, rfl⟩

theorem EncodedFields.unpack (color : Color) : EncodedFields.Statement (.unpack color) :=
  ⟨requestFields_fieldsWord _, rfl⟩

theorem EncodedFields.setpix (index : Half) (color : Color) : EncodedFields.Statement (.setpix index color) :=
  ⟨requestFields_fieldsWord _, rfl⟩

theorem EncodedFields.getpix (index : Half) : EncodedFields.Statement (.getpix index) :=
  ⟨requestFields_fieldsWord _, rfl⟩

theorem EncodedFields.fill (color : Color) (first count : Half) : EncodedFields.Statement (.fill color first count) :=
  ⟨requestFields_fieldsWord _, rfl⟩

theorem EncodedFields.clear : EncodedFields.Statement .clear :=
  ⟨requestFields_fieldsWord _, rfl⟩

theorem EncodedFields.resize (n : Half) : EncodedFields.Statement (.resize n) :=
  ⟨requestFields_fieldsWord _, rfl⟩

theorem EncodedFields.length : EncodedFields.Statement .length :=
  ⟨requestFields_fieldsWord _, rfl⟩

theorem EncodedFields.setbri (v : Byte) : EncodedFields.Statement (.setbri v) :=
  ⟨requestFields_fieldsWord _, rfl⟩

theorem EncodedFields.getbri : EncodedFields.Statement .getbri :=
  ⟨requestFields_fieldsWord _, rfl⟩

theorem EncodedFields.rdraw (index : Half) : EncodedFields.Statement (.rdraw index) :=
  ⟨requestFields_fieldsWord _, rfl⟩

end Sys2Proof.Laws
end

