-- ==== Sys2Proof/Tests/Slice0.lean ====
section
/-!
SUPPORT. The model's own tests: expected values come from the words and numbers of spec/ (each test names its place), never
from the model. Then, for every statement with hypotheses, a witness: a concrete state and operands that meet all of them.
-/

namespace Sys2Proof.Tests

open Sys2Proof Sys2Proof.Machine

/-- A small block with `MAX_PIXELS = 8` and `INIT_LEN = 4`. -/
def block (len : Half) (brt : Byte) (pix : Memory) (inputs : List HostInput := []) (inReset : Bool := false) : State :=
  { params := ⟨8, 4⟩, pix := pix, len := len, brt := brt, inReset := inReset, inputs := inputs, responses := [] }

/-- The state of an outcome that is a next state. -/
def nextOf (o : Host.Outcome State Fault Refusal) : Option State :=
  match o with
  | .next t => some t
  | _ => none

/-- What a run shows of a state (R166): the listed bytes, `LEN`, `BRT` and the responses. -/
def shown (o : Host.Outcome State Fault Refusal) : Option (Memory × Half × Byte × List ResponseWord) :=
  (nextOf o).map fun t => (t.pix, t.len, t.brt, t.responses)

/-! ### Well-formedness: each check refuses an ill-formed term -/

theorem test_wellFormed_pack : (Fields.mk 0x01 1 2 3 0 0 0).wellFormed = true := by decide
theorem test_illFormed_opcode_zero : (Fields.mk 0x00 0 0 0 0 0 0).wellFormed = false := by decide
theorem test_illFormed_opcode_0C : (Fields.mk 0x0C 0 0 0 0 0 0).wellFormed = false := by decide
theorem test_illFormed_opcode_FF : (Fields.mk 0xFF 0 0 0 0 0 0).wellFormed = false := by decide
theorem test_illFormed_pack_col : (Fields.mk 0x01 1 2 3 0 0 1).wellFormed = false := by decide
theorem test_illFormed_unpack_p0 : (Fields.mk 0x02 0 0 1 0 0 0x123456).wellFormed = false := by decide
theorem test_illFormed_setpix_cnt : (Fields.mk 0x03 0 0 0 1 0 0xFF).wellFormed = false := by decide
theorem test_illFormed_getpix_col : (Fields.mk 0x04 0 0 0 0 0 0x01000000).wellFormed = false := by decide
theorem test_illFormed_fill_p2 : (Fields.mk 0x05 1 0 0 0 0 0).wellFormed = false := by decide
theorem test_illFormed_clear_idx : (Fields.mk 0x06 0 0 0 0 1 0).wellFormed = false := by decide
theorem test_illFormed_resize_cnt : (Fields.mk 0x07 0 0 0 1 2 0).wellFormed = false := by decide
theorem test_illFormed_length_idx : (Fields.mk 0x08 0 0 0 0 1 0).wellFormed = false := by decide
theorem test_illFormed_setbri_p1 : (Fields.mk 0x09 0 1 5 0 0 0).wellFormed = false := by decide
theorem test_illFormed_getbri_p0 : (Fields.mk 0x0A 0 0 1 0 0 0).wellFormed = false := by decide
theorem test_illFormed_rdraw_col : (Fields.mk 0x0B 0 0 0 0 0 0x80000000).wellFormed = false := by decide
theorem test_illFormed_line_channel : (AsmLine.pack 256 0 0).wellFormed = false := by decide
theorem test_illFormed_line_index : (AsmLine.setpix 65536 0).wellFormed = false := by decide
theorem test_illFormed_line_color : (AsmLine.unpack 0x100000000).wellFormed = false := by decide
theorem test_illFormed_line_brightness : (AsmLine.setbri 256).wellFormed = false := by decide

/-! ### Decoding: words of spec/40_codec.md, spec/95_test_vectors.md sections 1 and 2 -/

theorem test_decode_pack : decode 0x011234560000000000000000 = .ok (.pack 0x12 0x34 0x56) := by rfl
theorem test_decode_unpack : decode 0x0200000000000000AB123456 = .ok (.unpack 0xAB123456) := by rfl
theorem test_decode_setpix : decode 0x030000000000000300AABBCC = .ok (.setpix 3 0x00AABBCC) := by rfl
theorem test_decode_getpix : decode 0x040000000000FFFF00000000 = .ok (.getpix 0xFFFF) := by rfl
theorem test_decode_fill : decode 0x050000000005000400010203 = .ok (.fill 0x00010203 4 5) := by rfl
theorem test_decode_clear : decode 0x060000000000000000000000 = .ok .clear := by rfl
theorem test_decode_resize : decode 0x070000000000000A00000000 = .ok (.resize 10) := by rfl
theorem test_decode_length : decode 0x080000000000000000000000 = .ok .length := by rfl
theorem test_decode_setbri : decode 0x090000FF0000000000000000 = .ok (.setbri 255) := by rfl
theorem test_decode_getbri : decode 0x0A0000000000000000000000 = .ok .getbri := by rfl
theorem test_decode_rdraw : decode 0x0B0000000000000200000000 = .ok (.rdraw 2) := by rfl
theorem test_encode_fill : encode (.fill 0x00ABCDEF 0xFFF0 0x0020) = 0x050000000020FFF000ABCDEF := by rfl

/-- 95_test_vectors.md section 2.7: the illegal words. -/
theorem test_illegal_words :
    decode 0 = .error (.undefinedOpcode 0x00) ∧
    decode 0x0C0000000000000000000000 = .error (.undefinedOpcode 0x0C) ∧
    decode 0xFF0000000000000000000000 = .error (.undefinedOpcode 0xFF) ∧
    decode 0x010102030000000000000001 = .error (.mustBeZeroField 0x01) ∧
    decode 0x020000010000000000123456 = .error (.mustBeZeroField 0x02) ∧
    decode 0x0300000000010000000000FF = .error (.mustBeZeroField 0x03) ∧
    decode 0x060000000000000000000001 = .error (.mustBeZeroField 0x06) ∧
    decode 0x090001050000000000000000 = .error (.mustBeZeroField 0x09) ∧
    decode 0x0B0000000000000080000000 = .error (.mustBeZeroField 0x0B) := by
  refine ⟨?_, ?_, ?_, ?_, ?_, ?_, ?_, ?_, ?_⟩ <;> rfl

/-- R65: every row's match is `OP << 88` with `OP` counting up from 0x01 in the table's order, and every mask covers
`OP`. -/
theorem test_table_matches :
    opcodeTable.map (fun row => row.code) = (List.range 11).map (fun k => BitVec.ofNat 96 ((k + 1) * 2 ^ 88)) ∧
    ∀ m ∈ opcodeTable.map (fun row => row.mask), m.extractLsb' 88 8 = 0xFF :=
  ⟨rfl, by simp [opcodeTable]⟩

theorem test_tableWord_too_long : decodeTableWord 104 (0x05 * 2 ^ 96) = none := by decide
theorem test_tableWord_fill : decodeTableWord 96 0x050000000005000400010203 = some (.fill 0x00010203 4 5) := by rfl

/-! ### The arithmetic: 95_test_vectors.md sections 2.2 and 2.6 -/

theorem test_wscale_129 : wscale 0xFF 129 = 0x80 ∧ wscale 0x12 129 = 0x09 ∧ wscale 0x01 255 = 0x00 := by decide
theorem test_rscale_129 : rscale 0x80 129 = 0xFE ∧ rscale 0x40 129 = 0x7F ∧ rscale 0x01 2 = 0x80 := by decide
theorem test_ratio_row_0 : rescaleRatio 0 0 = 1 ∧ rescaleRatio 0 128 = 129 ∧ rescaleRatio 0 254 = 255 := by decide
theorem test_ratio_row_1 : rescaleRatio 1 255 = 0 ∧ rescaleRatio 1 1 = 0 := by decide
theorem test_ratio_row_2 : rescaleRatio 2 0 = 255 ∧ rescaleRatio 2 254 = 65279 ∧ rescaleRatio 2 255 = 65535 := by
  decide
theorem test_ratio_row_200 : rescaleRatio 200 0 = 1 ∧ rescaleRatio 200 63 = 82 ∧ rescaleRatio 200 255 = 329 := by
  decide

/-! ### One step of each command: 95_test_vectors.md -/

/-- Section 2.1. -/
theorem test_pack : shown (exec (.pack 0xFF 0 1) (block 0 7 [])) = some ([], 0, 7, [0x0000000000FF0001]) := by decide

/-- Section 2.1. -/
theorem test_unpack : shown (exec (.unpack 0xAB123456) (block 0 0 [])) = some ([], 0, 0, [0x0012345600000000]) := by
  decide

/-- Section 2.3. -/
theorem test_setpix_scaled :
    shown (exec (.setpix 0 0x00FF8001) (block 2 129 [])) = some ([(0, 0x80), (1, 0x40)], 2, 129, [0]) := by decide

/-- Section 1.2. -/
theorem test_setpix_out_of_range :
    shown (exec (.setpix 4 0x00FFFFFF) (block 4 0 [(9, 0x0A)])) = some ([(9, 0x0A)], 4, 0, [0]) := by decide

/-- Section 2.3. -/
theorem test_getpix :
    shown (exec (.getpix 0) (block 2 129 [(0, 0x80), (1, 0x40)])) =
      some ([(0, 0x80), (1, 0x40)], 2, 129, [0x0000000000FE7F00]) := by decide

/-- Section 1.2. -/
theorem test_getpix_out_of_range : shown (exec (.getpix 4) (block 4 0 [(9, 0x0A)])) = some ([(9, 0x0A)], 4, 0, [0]) := by
  decide

/-- Section 2.4: the range is clipped at `LEN`. -/
theorem test_fill_clipped :
    shown (exec (.fill 0x00010203 4 5) (block 6 0 [])) =
      some ([(12, 1), (13, 2), (14, 3), (15, 1), (16, 2), (17, 3)], 6, 0, [0]) := by decide

/-- Section 2.4: the sum is not wrapped to 16 bits. -/
theorem test_fill_end_not_wrapped : fillEnd 0xFFF0 0x0020 0xFFFF = 65535 := by decide

/-- Section 2.5. -/
theorem test_clear : shown (exec .clear (block 1 129 [(0, 0x80), (2, 0x80)])) = some ([], 1, 129, [0]) := by decide

/-- Section 2.5: `n = MAX_PIXELS`. -/
theorem test_resize : shown (exec (.resize 8) (block 3 129 [(0, 0x80)])) = some ([], 8, 129, [0]) := by decide

/-- Section 2.5: `n > MAX_PIXELS`. -/
theorem test_resize_fails : shown (exec (.resize 9) (block 3 0 [(0, 0xFF)])) = some ([], 0, 0, [0]) := by decide

/-- Section 1.8. -/
theorem test_length : shown (exec .length (block 5 0 [])) = some ([], 5, 0, [0x0000000000000005]) := by decide

/-- Section 1.7: the brightness scenario. -/
theorem test_setbri :
    shown (exec (.setbri 128) (block 4 0 [(0, 0xFF), (4, 0xFF)])) =
      some ([(0, 0x80), (4, 0x80)], 4, 129, [0]) := by decide

/-- Section 2.6: to 255 from `BRT = 2`. -/
theorem test_setbri_255 : shown (exec (.setbri 255) (block 1 2 [(0, 0x01)])) = some ([(0, 0xFF)], 1, 0, [0]) := by
  decide

/-- Section 1.6: 255 in the unset state. -/
theorem test_getbri : shown (exec .getbri (block 1 0 [])) = some ([], 1, 0, [0x00000000000000FF]) := by decide

/-- Section 2.3. -/
theorem test_rdraw :
    shown (exec (.rdraw 0) (block 2 129 [(0, 0x80), (1, 0x40)])) =
      some ([(0, 0x80), (1, 0x40)], 2, 129, [0x0000000000804000]) := by decide

/-- Section 2.7: the word `OP = 0x0C`, as a step. -/
theorem test_illegal_step :
    shown (step (block 3 64 [(6, 0x3F)] [.request 0x0C0000000000000000000000])) =
      some ([(6, 0x3F)], 3, 64, [0x0100000000000000]) := by decide

/-- R161: a command cut by reset. -/
theorem test_cut_by_reset :
    shown (step (block 3 64 [(6, 0x3F)] [.requestCutByReset 0x060000000000000000000000])) = some ([], 4, 0, []) := by
  decide

/-- R22: the byte after the last live one has no value. -/
theorem test_dead_byte : (block 1 0 [(2, 5)]).liveByte 2 = some 5 ∧ (block 1 0 [(2, 5)]).liveByte 3 = none := by decide

/-- A table word is served as the first command after reset, whatever the open parameters are. -/
theorem test_first_after_reset :
    (nextOf (step (State.reset.withFetchWord 96 0x011234560000000000000000))).map (fun t => t.responses) =
      some [0x0000000000123456] := by rfl

/-! ### The assembler: R69, R70 and 95_test_vectors.md section 3, program 1 -/

theorem test_assemble_setrgb :
    assembleText "SETRGB 0, 0xFF, 0x80, 0x01".toList = .ok (some (.setpix 0 0x00FF8001)) := by decide
theorem test_assemble_fill :
    assembleText "FILL 0x00204060, 1, 0 ; to the end".toList = .ok (some (.fill 0x00204060 1 0)) := by decide
theorem test_assemble_refuses_wide : assembleText "SETBRI 256".toList = .error .operandTooWide := by decide
theorem test_assemble_refuses_unknown : assembleText "NOP".toList = .error .notACommand := by decide
theorem test_assemble_comment : assembleText " ; a comment".toList = .ok none := by decide

/-! ### Witnesses: the hypotheses of every statement are met -/

theorem witness_EncodeOfDecodeIsTheRequest : decode 0x090000FF0000000000000000 = .ok (.setbri 255) := by rfl

theorem witness_DecodeFollowsTheMatchingRow :
    (∃ row ∈ opcodeTable, (0x0B0000000000FFFF00000000 : Request) &&& row.mask = row.code) ∧
    ∀ row ∈ opcodeTable, (0x0C0000000000000000000000 : Request) &&& row.mask ≠ row.code :=
  ⟨⟨opcodeTable[10], by simp [opcodeTable], by decide⟩, by simp [opcodeTable]⟩

theorem witness_IllegalRequestsAreExactlyTheUndefined :
    (block 1 0 [] [.request 0xFF0000000000000000000000]).inputs = [.request 0xFF0000000000000000000000] ∧
    decode 0xFF0000000000000000000000 = .error (.undefinedOpcode 0xFF) := ⟨rfl, rfl⟩

theorem witness_StepRunsTheDecodedCommand :
    (block 1 0 [] [.request 0x060000000000000000000000]).inputs = [.request 0x060000000000000000000000] ∧
    (block 1 0 [] [.request 0x060000000000000000000000]).inReset = false ∧
    decode 0x060000000000000000000000 = .ok .clear := ⟨rfl, rfl, rfl⟩

theorem witness_StepRejectsAnIllegalRequest :
    (block 1 0 [] [.request 0x060000000000000000000001]).inputs = [.request 0x060000000000000000000001] ∧
    (block 1 0 [] [.request 0x060000000000000000000001]).inReset = false ∧
    decode 0x060000000000000000000001 = .error (.mustBeZeroField 0x06) := ⟨rfl, rfl, rfl⟩

theorem witness_RunReturnsOneResponsePerRequest :
    (block 2 129 [(0, 0x80)]).inReset = false ∧ 2 ≤ [(0x0A0000000000000000000000 : Request), 0].length := by decide

theorem witness_ResponseIllBitMarksIllegalRequests :
    (block 1 0 [] [.request 0]).inputs = [.request 0] ∧ (block 1 0 [] [.request 0]).inReset = false ∧
    step (block 1 0 [] [.request 0]) = .next { block 1 0 [] with responses := [0x0100000000000000] } :=
  ⟨rfl, rfl, rfl⟩

theorem witness_WaitingChangesNothing : (block 1 5 [(0, 1)]).inputs = [] := rfl

theorem witness_CodecRoundTrips :
    packColor ⟨1, 2, 3⟩ = packColor ⟨1, 2, 3⟩ ∧
    ((0x00123456 : Color).extractLsb' 24 8 = 0 ∧ unpackColor 0x00123456 = unpackColor 0x00123456) ∧
    (0xAB123456 : Color).extractLsb' 0 24 = (0x00123456 : Color).extractLsb' 0 24 := by decide

theorem witness_WriteScaleNeverDropsABit : (255 : Byte) ≠ 0 ∧ (1 : Byte) ≠ 0 := by decide

theorem witness_ReadInversionIsExactForReachableBytes : (129 : Byte) ≠ 0 ∧ (128 : Byte).toNat ≤ (129 : Byte).toNat - 1 := by
  decide

theorem witness_SetpixWritesOneScaledEntry :
    (¬ (4 : Half) < (block 4 129 [(9, 0x0A)]).len) ∧
    Memory.wf (block 4 129 [(9, 0x0A)]).pix ∧ (3 : Half) < (block 4 129 [(9, 0x0A)]).len := by decide

theorem witness_FillWritesTheClippedRange :
    (¬ (6 : Half) < (block 6 129 [(1, 7)]).len) ∧
    Memory.wf (block 6 129 [(1, 7)]).pix ∧ (5 : Half) < (block 6 129 [(1, 7)]).len := by decide

theorem witness_FillLaws :
    (1 : Half) < (block 4 0 [(1, 7)]).len ∧ (¬ (4 : Half) < (block 4 0 [(1, 7)]).len) ∧
    Memory.wf (block 4 0 [(1, 7)]).pix ∧
    [(2 : Half), 1].Perm ((List.range' (1 : Half).toNat (fillEnd 1 2 (block 4 0 [(1, 7)]).len - (1 : Half).toNat)).map
      (BitVec.ofNat 16)) := by decide

theorem witness_RdrawEqualsGetpixWhileUnset : (block 1 0 [(0, 9)]).brt = 0 := rfl

theorem witness_ZeroLengthBuffer : (block 0 129 []).len = 0 := rfl

theorem witness_SetThenGetLaws :
    (Memory.wf (block 2 0 [(3, 1)]).pix ∧ (block 2 0 [(3, 1)]).brt = 0 ∧ (1 : Half) < (block 2 0 [(3, 1)]).len) ∧
    (2 : Byte) ≠ 0 ∧ ¬ (2 : Half) < (block 2 0 [(3, 1)]).len := by decide

theorem witness_RescaleRatioFormula :
    (128 : Byte) + 1 ≠ 0 ∧ ((0 : Byte).toNat + 255) % 256 ≠ 0 ∧ (128 : Byte) ≠ 255 ∧
    ((5 : Byte) + 1 ≠ 1 ∧ ((1 : Byte).toNat + 255) % 256 = 0) ∧ (255 : Byte) + 1 ≠ 2 := by decide

theorem witness_SetbriRescalesEveryLiveByte :
    (128 : Byte) + 1 = (block 1 129 [(0, 0x80)]).brt ∧
    (Memory.wf (block 1 129 [(0, 0x80)]).pix ∧ (127 : Byte) + 1 ≠ (block 1 129 [(0, 0x80)]).brt) := by decide

/-- The small block with a brightness set meets the invariant, at the largest byte it allows. -/
theorem block_inv : (block 1 129 [(0, 0x80)]).Inv where
  lenLe := by decide
  pixWf := by decide
  pixLive := by decide
  bytes := by unfold State.BytesWithinBrightness; decide
  heldReset := by decide

theorem witness_GetpixAtRequestedZeroIsBlack :
    (State.mk ⟨8, 4⟩ [] 2 1 false [] []).Inv ∧ (State.mk ⟨8, 4⟩ [] 2 1 false [] []).brt = 1 :=
  ⟨⟨by decide, by decide, by decide, by unfold State.BytesWithinBrightness; decide, by decide⟩, rfl⟩

theorem witness_RescaleNeverCarriesInReachableStates :
    (block 1 129 [(0, 0x80)]).Inv ∧ (254 : Byte) + 1 ≠ (block 1 129 [(0, 0x80)]).brt ∧
    0 < 3 * (block 1 129 [(0, 0x80)]).len.toNat ∧ (254 : Byte) + 1 ≠ 0 :=
  ⟨block_inv, by decide⟩

theorem witness_RescaleLossCompounds :
    Memory.wf (block 1 0 [(0, 200)]).pix ∧ (block 1 0 [(0, 200)]).brt = 0 ∧
    0 < 3 * (block 1 0 [(0, 200)]).len.toNat ∧ Memory.read (block 1 0 [(0, 200)]).pix 0 = 200 := by decide

theorem witness_RescaleFromUnsetIsPremultiplication :
    (128 : Byte) ≠ 255 ∧ Memory.wf (block 1 0 [(0, 200)]).pix ∧ (block 1 0 [(0, 200)]).brt = 0 := by decide

theorem witness_CommandsAreIdempotent :
    (∃ n : Half, Instr.getpix 3 = .getpix n) ∧ Memory.wf (block 1 129 [(0, 0x80)]).pix :=
  ⟨⟨3, rfl⟩, by decide⟩

theorem witness_OnlyTheirWritersChangeTheRegisters :
    (exec (.setbri 4) (block 1 0 []) = .next { block 1 5 [] with responses := [0] } ∧
      ({ block 1 5 [] with responses := [0] } : State).brt ≠ (block 1 0 []).brt) ∧
    (exec (.resize 3) (block 1 0 []) = .next { block 3 0 [] with responses := [0] } ∧
      ({ block 3 0 [] with responses := [0] } : State).len ≠ (block 1 0 []).len) ∧
    (step (block 1 5 [] [.powerCycle]) = .next (block 4 0 []) ∧
      ((block 4 0 []).brt ≠ (block 1 5 [] [.powerCycle]).brt ∨
        (block 4 0 []).len ≠ (block 1 5 [] [.powerCycle]).len)) :=
  ⟨⟨rfl, by decide⟩, ⟨rfl, by decide⟩, rfl, by decide⟩

theorem witness_DeadBytesAreNeverObserved :
    Memory.wf (block 1 0 [(2, 9), (3, 1)]).pix ∧ Memory.wf (block 1 0 [(2, 9), (5, 4)]).pix ∧
    SameLive (block 1 0 [(2, 9), (3, 1)]) (block 1 0 [(2, 9), (5, 4)]) :=
  ⟨by decide, by decide, ⟨rfl, rfl, rfl, by decide⟩⟩

theorem witness_EveryStepKeepsTheInvariant :
    (block 1 129 [(0, 0x80)]).Inv ∧ step (block 1 129 [(0, 0x80)]) = .next (block 1 129 [(0, 0x80)]) :=
  ⟨block_inv, rfl⟩

theorem witness_ResetIsResizeToInitLenFromUnset : (block 1 0 [(0, 9)]).brt = 0 := rfl

theorem witness_ResetLevelFollowsTheHost :
    step (block 4 0 [] [.releaseReset] true) = .next (block 4 0 []) ∧
    step (block 1 5 [(0, 3)] [.assertReset]) = .next (block 4 0 [] [] true) := ⟨rfl, rfl⟩

theorem witness_ResetInputRestoresTheResetState :
    (block 1 129 [] [.assertReset]).inputs = [.assertReset] ∧ (block 1 129 [] [.powerCycle]).inputs = [.powerCycle] ∧
    exec (.setbri 255) (block 1 129 []) = .next { block 1 0 [] with responses := [0] } ∧
    ({ block 1 0 [] with responses := [0] } : State).brt = 0 := ⟨rfl, rfl, rfl, rfl⟩

theorem witness_RequestsDuringResetAreNotServed :
    (block 4 0 [] [.requestCutByReset 0]).inputs = [.requestCutByReset 0] ∧
    (block 4 0 [] [.request 0] true).inputs = [.request 0] ∧ (block 4 0 [] [.request 0] true).inReset = true :=
  ⟨rfl, rfl, rfl⟩

theorem witness_ReleasingResetChangesNothingHeld :
    (block 4 0 [] [.releaseReset, .request 0x060000000000000000000000] true).inputs =
      [.releaseReset, .request 0x060000000000000000000000] ∧
    decode 0x060000000000000000000000 = .ok .clear := ⟨rfl, rfl⟩

theorem witness_AssemblerRefusesOperandsThatDoNotFit : (AsmLine.getpix 65536).wellFormed = false := by decide

end Sys2Proof.Tests
end

