-- ==== Sys2Proof/Proofs/ResetState.lean ====
section
/-!
PROOFS. The state after reset (spec/10_state.md R32), for every choice of the parameters.
-/

namespace Sys2Proof.Machine

/-! ### The fields of the power-up state -/

@[simp] theorem State.powerUp_params (p : Params) : (State.powerUp p).params = p := rfl
@[simp] theorem State.powerUp_pix (p : Params) : (State.powerUp p).pix = [] := rfl
@[simp] theorem State.powerUp_len (p : Params) : (State.powerUp p).len = allocLen p (BitVec.ofFin p.initLen) := rfl
@[simp] theorem State.powerUp_brt (p : Params) : (State.powerUp p).brt = 0 := rfl

/-! ### What an allocation leaves -/

/-- The length an allocation leaves, as a number: what was asked for, or 0 where it is above the capacity (R98). -/
theorem allocLen_toNat (p : Params) (n : Half) :
    (allocLen p n).toNat = if n.toNat ≤ p.maxPixels.val then n.toNat else 0 := by
  unfold allocLen
  split <;> rfl

/-- With no byte listed, exactly the live bytes have a value, and it is 0 (R22). -/
theorem State.liveByte_of_pix_nil {s : State} (h : s.pix = []) (a : Nat) :
    s.liveByte a = if a < 3 * s.len.toNat then some 0 else none := by
  rw [State.liveByte, h, Memory.read_nil, State.liveBytes]

/-! ### The state after reset -/

/-- Settles O45: `LEN` is the allocation of `INIT_LEN` entries, and an empty cell list makes every live byte 0 (R32). -/
theorem resetValuesForEveryParameterChoice : Obligations.ResetValuesForEveryParameterChoice := by
  unfold Obligations.ResetValuesForEveryParameterChoice
  refine ⟨rfl, fun p => ⟨State.powerUp_params p, State.powerUp_brt p, ?_, ?_⟩⟩
  · rw [State.powerUp_len, allocLen_toNat, BitVec.toNat_ofFin]
  · exact State.liveByte_of_pix_nil (State.powerUp_pix p)

end Sys2Proof.Machine
end

/-!
PROOFS. Decoding against the opcode table (spec/30_encoding.md R66), the illegal requests (R67) and the
pseudo-instructions of the assembler (R70).
-/

namespace Sys2Proof

/-! ### The rows of the opcode table -/

theorem OpcodeRow.selects_iff (row : OpcodeRow) (w : Request) : row.selects w = true ↔ w &&& row.mask = row.code := by
  rw [OpcodeRow.selects, beq_iff_eq]

/-- The loop of R66 answers the command of a selected row that no other selected row of the table precedes. -/
theorem decodeRows_of_only_selected {w : Request} {row : OpcodeRow} {rows : List OpcodeRow}
    (hmem : row ∈ rows) (hsel : row.selects w = true) (honly : ∀ r ∈ rows, r.selects w = true → r = row) :
    decodeRows w rows = .ok (row.operands (requestFields w)) := by
  induction rows with
  | nil => simp at hmem
  | cons r rows ih =>
    rw [decodeRows]
    split
    case isTrue hr => rw [honly r (by simp) hr]
    case isFalse hr =>
      have hne : row ≠ r := fun h => hr (h ▸ hsel)
      exact ih (List.mem_of_ne_of_mem hne hmem) fun r' hr' => honly r' (List.mem_cons_of_mem _ hr')

/-- The loop of R66 over rows of which none is selected finds the request illegal. -/
theorem decodeRows_of_none_selected {w : Request} {rows : List OpcodeRow} (h : ∀ r ∈ rows, r.selects w = false) :
    decodeRows w rows = .error (illegalCause w) := by
  induction rows with
  | nil => rfl
  | cons r rows ih =>
    rw [decodeRows, if_neg (by simp [h r])]
    exact ih fun r' hr' => h r' (List.mem_cons_of_mem _ hr')

/-- Every row tests all eight bits of `OP` (R65). -/
theorem opcodeTable_mask_op : ∀ row ∈ opcodeTable, (requestFields row.mask).op = BitVec.allOnes 8 := by
  simp [opcodeTable, requestFields]

/-- No two rows have the same opcode (R64). -/
theorem opcodeTable_nodup_op : (opcodeTable.map fun row => (requestFields row.code).op).Nodup := by
  decide

/-- A request has the opcode of a row that it selects. -/
theorem op_eq_of_selects {w : Request} {row : OpcodeRow} (hmem : row ∈ opcodeTable) (hsel : row.selects w = true) :
    (requestFields row.code).op = (requestFields w).op := by
  have hmask : row.mask.extractLsb' 88 8 = BitVec.allOnes 8 := opcodeTable_mask_op row hmem
  rw [← (row.selects_iff w).1 hsel]
  simp only [requestFields, BitVec.extractLsb'_and, hmask, BitVec.and_allOnes]

/-- At most one row of the table is selected (R66). -/
theorem eq_of_selects {w : Request} {row row' : OpcodeRow} (hmem : row ∈ opcodeTable) (hmem' : row' ∈ opcodeTable)
    (hsel : row.selects w = true) (hsel' : row'.selects w = true) : row = row' :=
  List.inj_on_of_nodup_map opcodeTable_nodup_op hmem hmem'
    ((op_eq_of_selects hmem hsel).trans (op_eq_of_selects hmem' hsel').symm)

/-- Settles O3: distinct opcodes leave at most one selected row, and the loop over the table finds it. -/
theorem decodeFollowsTheMatchingRow : Obligations.DecodeFollowsTheMatchingRow := by
  unfold Obligations.DecodeFollowsTheMatchingRow
  refine fun w => ⟨fun row hmem hrow => ?_, fun hnone => ?_⟩
  · have hsel := (row.selects_iff w).2 hrow
    exact decodeRows_of_only_selected hmem hsel fun r hr hrsel => eq_of_selects hr hmem hrsel hsel
  · have hfalse : ∀ r ∈ opcodeTable, r.selects w = false := fun r hr =>
      Bool.eq_false_iff.2 fun hsel => hnone r hr ((r.selects_iff w).1 hsel)
    exact ⟨illegalCause w, decodeRows_of_none_selected hfalse⟩

/-! ### The illegal requests -/

/-- Peels one row off the decoder's answer: an error comes from the rows below. -/
theorem exists_ite_ok_eq_error_iff {ε α : Type} {p : Prop} [Decidable p] {a : α} {x : Except ε α} :
    (∃ e, (if p then .ok a else x) = .error e) ↔ ¬p ∧ ∃ e, x = .error e := by
  split <;> simp [*]

/-- `OP` is 0x00, one of the eleven defined opcodes, or at least 0x0C (R64, R67). -/
theorem opcode_cases :
    ∀ op : Byte, op = 0x00 ∨ 0x0C ≤ op ∨ op = 0x01 ∨ op = 0x02 ∨ op = 0x03 ∨ op = 0x04 ∨ op = 0x05 ∨
      op = 0x06 ∨ op = 0x07 ∨ op = 0x08 ∨ op = 0x09 ∨ op = 0x0A ∨ op = 0x0B := by
  decide

/-- No opcode from 0x0C on is a defined one (R67). -/
theorem ne_of_opcode_ge {op k : Byte} (h : 0x0C ≤ op) (hk : k < 0x0C) : op ≠ k := by
  rintro rfl
  exact BitVec.not_lt.2 h hk

end Sys2Proof

namespace Sys2Proof.Machine

/-! ### A step on an illegal request -/

/-- A presented request is taken unless the reset input is asserted (R150, R161). -/
theorem State.takeInput_of_request {s : State} {w : Request} {rest : List HostInput}
    (h : s.inputs = .request w :: rest) :
    s.takeInput = if s.inReset then .settled (s.setInputs rest) else .command w (s.setInputs rest) := by
  rw [State.takeInput, h]

/-- A step on an illegal request drops it while reset is asserted, and rejects it otherwise (R141, R161). -/
theorem step_of_illegal_request {s : State} {w : Request} {rest : List HostInput} {e : IllegalCommand}
    (h : s.inputs = .request w :: rest) (hd : decode w = .error e) :
    step s = .next (if s.inReset then s.setInputs rest else (s.setInputs rest).rejectIllegal) := by
  have htake := State.takeInput_of_request h
  cases hr : s.inReset with
  | true => rw [hr, if_pos rfl] at htake; rw [step_of_settled htake, if_pos rfl]
  | false => rw [hr, if_neg Bool.false_ne_true] at htake; rw [step_of_command htake, hd, if_neg Bool.false_ne_true]

/-- No step on an illegal request writes the architectural state, whatever the level of the reset input (R67, R161). -/
theorem step_of_illegal_request_sameArch {s : State} {w : Request} {rest : List HostInput} {e : IllegalCommand}
    (h : s.inputs = .request w :: rest) (hd : decode w = .error e) : ∃ t, step s = .next t ∧ SameArch s t := by
  refine ⟨_, step_of_illegal_request h hd, ?_⟩
  split
  · exact ⟨rfl, rfl, rfl⟩
  · exact ⟨rfl, rfl, rfl⟩

/-- Settles O4: for each value of `OP` at most one row's test is left, and it asks for the must-be-0 fields alone. -/
theorem illegalRequestsAreExactlyTheUndefined : Obligations.IllegalRequestsAreExactlyTheUndefined := by
  unfold Obligations.IllegalRequestsAreExactlyTheUndefined
  refine ⟨?_, fun _ _ _ _ => step_of_illegal_request_sameArch⟩
  intro w op p2 p1 p0 cnt idx col
  have hw : fieldsWord ⟨op, p2, p1, p0, cnt, idx, col⟩ = w := fieldsWord_requestFields w
  rw [← hw, decode_fieldsWord]
  clear_value op p2 p1 p0 cnt idx col
  simp only [exists_ite_ok_eq_error_iff]
  rcases opcode_cases op with hzero | hge | hop | hop | hop | hop | hop | hop | hop | hop | hop | hop | hop
  · simp [hzero]
  · have hne : ∀ k : Byte, k < 0x0C → op ≠ k := fun k => ne_of_opcode_ge hge
    rw [iff_true_right (.inr (.inl hge))]
    simp [hne]
  all_goals simp [hop]

/-! ### The pseudo-instructions -/

/-- Two lines assemble to the same answer where the same operands fit and they stand for the same command. -/
theorem assemble_congr {l l' : AsmLine} (hfit : l.wellFormed = l'.wellFormed) (hcmd : expandLine l = expandLine l') :
    assemble l = assemble l' := by
  rw [assemble, assemble, hfit, hcmd]

/-- Three channels packed by shifts fit a colour (R70). -/
theorem shifted_channels_lt (r g b : Byte) : (r.toNat <<< 16) ||| (g.toNat <<< 8) ||| b.toNat < 2 ^ 32 := by
  have hr : r.toNat <<< 16 < 2 ^ 32 := by rw [Nat.shiftLeft_eq]; omega
  have hg : g.toNat <<< 8 < 2 ^ 32 := by rw [Nat.shiftLeft_eq]; omega
  exact Nat.or_lt_two_pow (Nat.or_lt_two_pow hr hg) (by omega)

/-- Settles O52: each pseudo-instruction and its expansion fit the same operands and stand for the same command. -/
theorem pseudoInstructionsExpandToOneCommand : Obligations.PseudoInstructionsExpandToOneCommand := by
  unfold Obligations.PseudoInstructionsExpandToOneCommand
  refine ⟨fun index r g b => ?_, fun color => ?_, fun color first => ?_⟩
  · have hcolor := shifted_channels_lt r g b
    have hfit : (AsmLine.setrgb index.toNat r.toNat g.toNat b.toNat).wellFormed = true := by
      simp only [AsmLine.wellFormed, BitVec.isLt, decide_true, Bool.and_self]
    have hfit' : (AsmLine.setpix index.toNat ((r.toNat <<< 16) ||| (g.toNat <<< 8) ||| b.toNat)).wellFormed = true := by
      simp only [AsmLine.wellFormed, BitVec.isLt, hcolor, decide_true, Bool.and_self]
    exact assemble_congr (hfit.trans hfit'.symm) rfl
  · exact assemble_congr (by simp [AsmLine.wellFormed]) rfl
  · exact assemble_congr (by simp [AsmLine.wellFormed]) rfl

end Sys2Proof.Machine

/-!
PROOFS. The colour codec commands (spec/40_codec.md R82, R83): their request words, their responses, and the state they
leave.
-/

namespace Sys2Proof.Machine

/-! ### The request words -/

/-- The fields of PACK spell PACK (R64). -/
theorem decode_fieldsWord_pack (r g b : Byte) : decode (fieldsWord ⟨0x01, r, g, b, 0, 0, 0⟩) = .ok (.pack r g b) := by
  rw [decode_fieldsWord, if_pos ⟨rfl, rfl, rfl, rfl⟩]

/-- The fields of UNPACK spell UNPACK: the row of PACK has another opcode, and `COL` may hold any colour (R64, R67). -/
theorem decode_fieldsWord_unpack (c : Color) : decode (fieldsWord ⟨0x02, 0, 0, 0, 0, 0, c⟩) = .ok (.unpack c) := by
  have hop : (0x02 : Byte) ≠ 0x01 := by decide
  rw [decode_fieldsWord, if_neg fun h => hop h.left, if_pos ⟨rfl, rfl, rfl, rfl, rfl, rfl⟩]

/-! ### The channels of a colour and the responses -/

/-- The channels of a colour written byte by byte are its lower three bytes; the top byte is discarded (R81). -/
theorem unpackColor_append (white r g b : Byte) : unpackColor (white ++ r ++ g ++ b) = ⟨r, g, b⟩ := by
  have hcolor : (white ++ r ++ g ++ b : Color).toNat =
      ((white.toNat * 2 ^ 8 + r.toNat) * 2 ^ 8 + g.toNat) * 2 ^ 8 + b.toNat := by
    simp only [toNat_append_eq_add]
  obtain ⟨hred, hgreen, hblue⟩ := unpackColor_toNat (white ++ r ++ g ++ b)
  rw [hcolor] at hred hgreen hblue
  simp only [Rgb.ext_iff, ← BitVec.toNat_inj]
  exact ⟨by omega, by omega, by omega⟩

/-- The response of PACK: the three channels side by side in `DATA` (R63, R80). -/
theorem responseWord_packColor (x : Rgb) :
    responseWord (dataResponse (packColor x)) =
      BitVec.ofNat 64 (x.red.toNat * 2 ^ 16 + x.green.toNat * 2 ^ 8 + x.blue.toNat) := by
  rw [responseWord_data, ← BitVec.ofNat_toNat]
  exact congrArg (BitVec.ofNat 64) (packColor_toNat x)

/-- The response of UNPACK: one channel in each of `UR`, `UG`, `UB`, every other field 0 (R63). -/
theorem responseWord_channels (x : Rgb) :
    responseWord (channelsResponse x) =
      BitVec.ofNat 64 (x.red.toNat * 2 ^ 48 + x.green.toNat * 2 ^ 40 + x.blue.toNat * 2 ^ 32) := by
  apply BitVec.eq_of_toNat_eq
  rw [responseWord_toNat, BitVec.toNat_ofNat, Nat.mod_eq_of_lt (by omega)]
  simp [channelsResponse]

/-! ### The two commands -/

/-- A response is appended to the earlier ones, and no other field is written. -/
theorem State.respond_eq (s : State) (r : Response) :
    s.respond r = { s with responses := s.responses ++ [responseWord r] } := rfl

/-- Settles O12: the word is the one of PACK's fields, and the lanes of the packed colour do not overlap. -/
theorem packReturnsThePackedColor : Obligations.PackReturnsThePackedColor := by
  unfold Obligations.PackReturnsThePackedColor
  refine fun r g b => ⟨decode_fieldsWord_pack r g b, fun s => ?_⟩
  rw [exec_pack, State.respond_eq, responseWord_packColor]

/-- Settles O13: the word is the one of UNPACK's fields, and the three channels are the lower bytes of the colour. -/
theorem unpackReturnsTheChannels : Obligations.UnpackReturnsTheChannels := by
  unfold Obligations.UnpackReturnsTheChannels
  refine fun white r g b => ⟨decode_fieldsWord_unpack (white ++ r ++ g ++ b), fun s => ?_⟩
  rw [exec_unpack, State.respond_eq, unpackColor_append, responseWord_channels]

end Sys2Proof.Machine

/-!
PROOFS. The pixel buffer commands (spec/41_pixel_buffer.md R90 to R99): the two fixed-point formulas in the rules' 16-bit
arithmetic, and for each command its request word, the bytes it writes or returns, and what it leaves unchanged.
-/

namespace Sys2Proof

/-! ### The request words -/

/-- A command's request word decodes to that command: no row before its own has its opcode, and every must-be-0 field
is 0 (R64, R66). -/
theorem decode_encode (i : Instr) : decode (encode i) = .ok i := by
  rw [encode, decode_fieldsWord]
  cases i <;> simp [instrFields]

end Sys2Proof

namespace Sys2Proof.Machine

/-! ### The write scale and the read inversion in 16 bits -/

/-- Two bytes have a 16-bit product: none of its bits is lost (R90). -/
theorem toNat_mul_setWidth (ch s : Byte) : (ch.setWidth 16 * s.setWidth 16).toNat = ch.toNat * s.toNat := by
  have hprod : ch.toNat * s.toNat ≤ 255 * 255 :=
    Nat.mul_le_mul (Nat.le_of_lt_succ ch.isLt) (Nat.le_of_lt_succ s.isLt)
  rw [BitVec.toNat_mul, BitVec.toNat_setWidth_of_le (by decide), BitVec.toNat_setWidth_of_le (by decide),
    Nat.mod_eq_of_lt (by omega)]

/-- A byte shifted left by 8 fits 16 bits (R91). -/
theorem toNat_setWidth_shiftLeft (p : Byte) : (p.setWidth 16 <<< 8).toNat = p.toNat * 2 ^ 8 := by
  rw [BitVec.toNat_shiftLeft, BitVec.toNat_setWidth_of_le (by decide), Nat.shiftLeft_eq, Nat.mod_eq_of_lt (by omega)]

/-- Settles O15: the 16-bit product is exact, and its high byte fits the slice. -/
theorem writeScaleIsTheFixedPointFormula : Obligations.WriteScaleIsTheFixedPointFormula := by
  unfold Obligations.WriteScaleIsTheFixedPointFormula
  intro ch s
  split
  case isTrue hs => rw [wscale, if_pos hs]
  case isFalse hs =>
    rw [wscale, if_neg hs, ← BitVec.ofNat_toNat 8, BitVec.toNat_ushiftRight, toNat_mul_setWidth,
      Nat.shiftRight_eq_div_pow]

/-- Settles O17: the 16-bit dividend is exact, so the quotient is the floor quotient, and both sides keep its low byte. -/
theorem readInversionIsTheFloorQuotient : Obligations.ReadInversionIsTheFloorQuotient := by
  unfold Obligations.ReadInversionIsTheFloorQuotient
  intro p s
  split
  case isTrue hs => rw [rscale, if_pos hs]
  case isFalse hs =>
    rw [rscale, if_neg hs, ← BitVec.ofNat_toNat 8, BitVec.toNat_udiv, toNat_setWidth_shiftLeft,
      BitVec.toNat_setWidth_of_le (by decide)]

/-! ### Responses and ports -/

/-- An all-0 response is appended, and no other field is written (R63). -/
theorem State.respond_empty (s : State) : s.respond emptyResponse = { s with responses := s.responses ++ [0] } := by
  rw [State.respond_eq, responseWord_empty]

/-- An all-0 response comes after the earlier ones (R63). -/
theorem State.responses_respond_empty {s u : State} (h : u.responses = s.responses) :
    (u.respond emptyResponse).responses = s.responses ++ [0] := by
  rw [State.respond_responses, h, responseWord_empty]

/-- A response changes nothing else at the ports. -/
theorem SamePorts.respond {s u : State} (h : SamePorts s u) (r : Response) : SamePorts s (u.respond r) :=
  ⟨h.params, h.inReset, h.inputs⟩

/-- A pixel write leaves the ports alone (R92). -/
theorem State.samePorts_writePixel (s : State) (i : Half) (c : Color) : SamePorts s (s.writePixel i c) :=
  ⟨(s.writePixel_params i c).symm, (s.writePixel_inReset i c).symm, (s.writePixel_inputs i c).symm⟩

/-- A fill leaves the ports alone (R94). -/
theorem State.samePorts_fillPixels (s : State) (c : Color) (first count : Half) :
    SamePorts s (s.fillPixels c first count) :=
  ⟨(s.fillPixels_params c first count).symm, (s.fillPixels_inReset c first count).symm,
    (s.fillPixels_inputs c first count).symm⟩

/-! ### The writes: SETPIX and FILL -/

/-- A pixel write out of range writes nothing (R92). -/
theorem State.writePixel_of_not_lt {s : State} {i : Half} (h : ¬ i < s.len) (c : Color) : s.writePixel i c = s :=
  if_neg h

/-- The three bytes of a pixel written in range are the channels of the scaled colour (R92). -/
theorem State.readEntry_writePixel {s : State} (hw : Memory.wf s.pix) {i : Half} (h : i < s.len) (c : Color) :
    Memory.readEntry (s.writePixel i c).pix i.toNat = s.scaledColor c := by
  rw [State.writePixel, if_pos h, State.setPix_pix, Memory.readEntry_writeEntry hw]

/-- A byte of another entry than the written one is kept (R92). -/
theorem State.read_writePixel_of_ne {s : State} (hw : Memory.wf s.pix) (i : Half) (c : Color) {a : Nat}
    (hred : a ≠ entryAddr i.toNat) (hgreen : a ≠ entryAddr i.toNat + 1) (hblue : a ≠ entryAddr i.toNat + 2) :
    Memory.read (s.writePixel i c).pix a = Memory.read s.pix a := by
  rw [State.read_writePixel hw, if_neg hred, if_neg hgreen, if_neg hblue, ite_self]

/-- Settles O19: the entry written is read back channel by channel, and a write touches its three addresses alone. -/
theorem setpixWritesOneScaledEntry : Obligations.SetpixWritesOneScaledEntry := by
  unfold Obligations.SetpixWritesOneScaledEntry
  refine fun i c => ⟨decode_encode (.setpix i c), fun s h => ?_, fun s hw h => ?_⟩
  · rw [exec_setpix, State.writePixel_of_not_lt h, State.respond_empty]
  · obtain ⟨hred, hgreen, hblue⟩ := Rgb.ext_iff.1 (State.readEntry_writePixel hw h c)
    exact ⟨_, exec_setpix i c s, hred, hgreen, hblue, fun a => State.read_writePixel_of_ne hw i c,
      s.writePixel_len i c, s.writePixel_brt i c, State.responses_respond_empty (s.writePixel_responses i c),
      (s.samePorts_writePixel i c).respond _⟩

/-- A fill from a start out of range writes nothing (R94). -/
theorem State.fillPixels_of_not_lt {s : State} {first : Half} (h : ¬ first < s.len) (c : Color) (count : Half) :
    s.fillPixels c first count = s :=
  if_neg h

/-- A byte of no filled entry is kept (R94). -/
theorem State.read_fillPixels_of_ne {s : State} (hw : Memory.wf s.pix) (c : Color) (first count : Half) {a : Nat}
    (ha : ∀ i, first.toNat ≤ i → i < fillEnd first count s.len →
      a ≠ entryAddr i ∧ a ≠ entryAddr i + 1 ∧ a ≠ entryAddr i + 2) :
    Memory.read (s.fillPixels c first count).pix a = Memory.read s.pix a := by
  rw [State.read_fillPixels hw, if_neg]
  rintro ⟨hfirst, hend⟩
  obtain ⟨hred, hgreen, hblue⟩ := ha (a / 3) hfirst hend
  unfold entryAddr at hred hgreen hblue
  omega

/-- The three bytes of a filled entry are the channels of the scaled colour (R94). -/
theorem State.readEntry_fillPixels {s : State} (hw : Memory.wf s.pix) (c : Color) {first count : Half} {i : Nat}
    (hfirst : first.toNat ≤ i) (hend : i < fillEnd first count s.len) :
    Memory.readEntry (s.fillPixels c first count).pix i = s.scaledColor c := by
  have hread (k : Nat) (hk : k < 3) : Memory.read (s.fillPixels c first count).pix (entryAddr i + k) =
      if k = 0 then (s.scaledColor c).red else if k = 1 then (s.scaledColor c).green else (s.scaledColor c).blue := by
    have hentry : (entryAddr i + k) / 3 = i := by unfold entryAddr; omega
    have hlane : (entryAddr i + k) % 3 = k := by unfold entryAddr; omega
    rw [State.read_fillPixels hw, hentry, hlane, if_pos ⟨hfirst, hend⟩]
  exact Rgb.ext (hread 0 (by decide)) (hread 1 (by decide)) (hread 2 (by decide))

/-- Settles O22: byte `a` belongs to entry `a / 3`, which is filled exactly when it lies in the clipped range. -/
theorem fillWritesTheClippedRange : Obligations.FillWritesTheClippedRange := by
  unfold Obligations.FillWritesTheClippedRange
  refine fun c first count => ⟨decode_encode (.fill c first count), fun s h => ?_, fun s hw h => ?_⟩
  · rw [exec_fill, State.fillPixels_of_not_lt h, State.respond_empty]
  · exact ⟨_, exec_fill c first count s,
      fun i hfirst hend => Rgb.ext_iff.1 (State.readEntry_fillPixels hw c hfirst hend),
      fun a => State.read_fillPixels_of_ne hw c first count, s.fillPixels_len c first count,
      s.fillPixels_brt c first count, State.responses_respond_empty (s.fillPixels_responses c first count),
      (s.samePorts_fillPixels c first count).respond _⟩

/-! ### The reads: GETPIX, RDRAW and LENGTH -/

/-- The response of a pixel read: the entry's bytes through `f` side by side in `DATA`, or 0 out of range (R93, R99). -/
theorem responseWord_readPixel (s : State) (f : Byte → Byte) (i : Half) :
    responseWord (dataResponse (s.readPixel f i)) =
      if i < s.len then
        BitVec.ofNat 64
          ((f (Memory.read s.pix (entryAddr i.toNat))).toNat * 2 ^ 16 +
            (f (Memory.read s.pix (entryAddr i.toNat + 1))).toNat * 2 ^ 8 +
            (f (Memory.read s.pix (entryAddr i.toNat + 2))).toNat)
      else 0 := by
  rcases s.readPixel_cases f i with ⟨h, e⟩ | ⟨h, e⟩
  · rw [e, if_pos h, responseWord_packColor]
    rfl
  · rw [e, if_neg h]
    exact responseWord_empty

/-- Settles O20: a read writes no state, and its response packs the three inverted bytes. -/
theorem getpixReturnsTheInvertedEntry : Obligations.GetpixReturnsTheInvertedEntry := by
  unfold Obligations.GetpixReturnsTheInvertedEntry
  refine fun i => ⟨decode_encode (.getpix i), fun s => ?_⟩
  rw [exec_getpix, State.respond_eq, responseWord_readPixel]

/-- Settles O27: a read writes no state, and its response packs the three stored bytes as they are. -/
theorem rdrawReturnsTheStoredEntry : Obligations.RdrawReturnsTheStoredEntry := by
  unfold Obligations.RdrawReturnsTheStoredEntry
  refine fun i => ⟨decode_encode (.rdraw i), fun s => ?_⟩
  rw [exec_rdraw, State.respond_eq, responseWord_readPixel]

/-- Settles O25: `LEN` keeps its value when it is extended to `DATA` and to the response word. -/
theorem lengthReturnsThePixelCount : Obligations.LengthReturnsThePixelCount := by
  unfold Obligations.LengthReturnsThePixelCount
  refine ⟨decode_encode .length, fun s => ?_⟩
  have hdata : responseWord (dataResponse (s.len.setWidth 32)) = BitVec.ofNat 64 s.len.toNat := by
    rw [responseWord_data, ← BitVec.ofNat_toNat 64, BitVec.toNat_setWidth_of_le (by decide)]
  rw [exec_length, State.respond_eq, hdata]

/-! ### The whole buffer: CLEAR and RESIZE -/

/-- A byte 0 is read as 0 at every brightness (R91). -/
@[simp] theorem rscale_zero (s : Byte) : rscale 0#8 s = 0#8 := by
  simp [rscale]

/-- A response is not read back: it leaves every pixel read as it is. -/
theorem State.readPixel_respond (s : State) (r : Response) (f : Byte → Byte) (i : Half) :
    (s.respond r).readPixel f i = s.readPixel f i := rfl

/-- Where every live byte is 0, every pixel read is black (R93, R99). -/
theorem State.readPixel_of_live_zero {s : State} (hzero : ∀ a < s.liveBytes, Memory.read s.pix a = 0)
    {f : Byte → Byte} (hf : f 0 = 0) (i : Half) : s.readPixel f i = 0 := by
  rcases s.readPixel_cases f i with ⟨h, e⟩ | ⟨-, e⟩
  · have hlive (k : Nat) (hk : k < 3) : Memory.read s.pix (entryAddr i.toNat + k) = 0 := by
      refine hzero _ ?_
      rw [BitVec.lt_def] at h
      unfold entryAddr State.liveBytes
      omega
    have hentry : Memory.readEntry s.pix i.toNat = ⟨0, 0, 0⟩ :=
      Rgb.ext (hlive 0 (by decide)) (hlive 1 (by decide)) (hlive 2 (by decide))
    rw [e, hentry, mapChannels, hf]
    rfl
  · exact e

/-- The byte that reading an address gives after every live byte is zeroed, whatever the brightness (R96). -/
theorem State.read_clear (s : State) (a : Nat) :
    Memory.read (s.setPix (Memory.zeroBelow s.pix s.liveBytes)).pix a =
      if a < s.liveBytes then 0 else Memory.read s.pix a :=
  Memory.read_zeroBelow s.pix s.liveBytes a

/-- Every pixel read of a cleared buffer is black (R96). -/
theorem State.readPixel_clear (s : State) (f : Byte → Byte) (hf : f 0 = 0) (i : Half) :
    (s.setPix (Memory.zeroBelow s.pix s.liveBytes)).readPixel f i = 0 := by
  refine State.readPixel_of_live_zero (fun a ha => ?_) hf i
  rw [State.liveBytes_setPix] at ha
  rw [State.read_clear, if_pos ha]

/-- Settles O24: the bytes below `3*LEN` are zeroed without the write scale, and a byte 0 is inverted to 0. -/
theorem clearZeroesEveryLiveByte : Obligations.ClearZeroesEveryLiveByte := by
  unfold Obligations.ClearZeroesEveryLiveByte
  refine ⟨decode_encode .clear, fun s => ?_, fun s i => ?_⟩
  · exact ⟨_, exec_clear s, fun a ha => (s.read_clear a).trans (if_pos ha),
      fun a ha => (s.read_clear a).trans (if_neg (Nat.not_lt.2 ha)), rfl, rfl, State.responses_respond_empty rfl,
      ⟨rfl, rfl, rfl⟩⟩
  · refine ⟨_, _, exec_clear s, exec_getpix i _, ?_⟩
    simp only [State.respond_responses, State.respond_brt, State.setPix_responses, State.setPix_brt,
      State.readPixel_respond, s.readPixel_clear (fun p => rscale p s.brt) (rscale_zero s.brt) i, responseWord_empty,
      List.append_assoc]
    rfl

/-- Settles O26: the fresh allocation lists no byte, so exactly the bytes below `3*LEN` are live, and each is 0. -/
theorem resizeReplacesTheBuffer : Obligations.ResizeReplacesTheBuffer := by
  unfold Obligations.ResizeReplacesTheBuffer
  refine fun n => ⟨decode_encode (.resize n), fun s => ?_⟩
  exact ⟨_, exec_resize n s, rfl, State.liveByte_of_pix_nil rfl, rfl, State.responses_respond_empty rfl,
    ⟨rfl, rfl, rfl⟩⟩

end Sys2Proof.Machine

/-!
PROOFS. The brightness scaler (spec/42_brightness.md R120 to R126): the bias between requested and stored brightness, the
rescale's ratio and its 24-bit product, and the two commands SETBRI and GETBRI.
-/

namespace Sys2Proof.Machine

/-! ### The bias -/

/-- The stored brightness is the requested one plus 1, modulo 256 (R120). -/
theorem storedBrightness_toNat (v : Byte) : (storedBrightness v).toNat = (v.toNat + 1) % 256 :=
  BitVec.toNat_add v 1

/-- The requested brightness is the stored one minus 1, modulo 256 (R120). -/
theorem requestedBrightness_toNat (s : Byte) : (requestedBrightness s).toNat = (s.toNat + 255) % 256 := by
  rw [requestedBrightness, BitVec.toNat_sub, Nat.add_comm]
  rfl

/-- Removing the bias gives back the brightness that was requested (R120). -/
@[simp] theorem requestedBrightness_stored (v : Byte) : requestedBrightness (storedBrightness v) = v :=
  BitVec.add_sub_cancel v 1

/-- Settles O31: both conversions are 8-bit operations, and subtracting 1 undoes adding 1. -/
theorem brightnessBiasIsUndone : Obligations.BrightnessBiasIsUndone := by
  unfold Obligations.BrightnessBiasIsUndone
  exact ⟨storedBrightness_toNat, requestedBrightness_toNat, requestedBrightness_stored, rfl⟩

/-! ### The rescale ratio and the rescale of a byte -/

/-- A floor quotient of a number below `2 ^ 16` is not cut by the 16 bits of a ratio (R123). -/
theorem toNat_ofNat_div_of_lt {x : Nat} (hx : x < 2 ^ 16) (d : Nat) : (BitVec.ofNat 16 (x / d)).toNat = x / d := by
  rw [BitVec.toNat_ofNat, Nat.mod_eq_of_lt ((Nat.div_le_self x d).trans_lt hx)]

/-- In the last branch of the ratio the dividend is 255 to 65279, since the new stored value is 1 to 255 (R123). -/
theorem rescaleDividend_bounds {v : Byte} (hv : v ≠ 255) :
    255 ≤ (storedBrightness v).toNat * 2 ^ 8 - 1 ∧ (storedBrightness v).toNat * 2 ^ 8 - 1 ≤ 65279 := by
  have hne : v.toNat ≠ 255 := fun h => hv (BitVec.eq_of_toNat_eq h)
  rw [storedBrightness_toNat]
  omega

/-- The rescale ratio as a number: the exact quotient in each branch (R123). -/
theorem rescaleRatio_toNat (cur v : Byte) :
    (rescaleRatio cur v).toNat =
      if (requestedBrightness cur).toNat = 0 then 0
      else if v = 255 then 65535 / (requestedBrightness cur).toNat
      else ((storedBrightness v).toNat * 2 ^ 8 - 1) / (requestedBrightness cur).toNat := by
  have hzero : requestedBrightness cur = 0 ↔ (requestedBrightness cur).toNat = 0 := BitVec.toNat_inj.symm
  simp only [rescaleRatio, hzero]
  split
  case isTrue => rfl
  case isFalse =>
    split
    case isTrue => exact toNat_ofNat_div_of_lt (by decide) _
    case isFalse hv => exact toNat_ofNat_div_of_lt ((rescaleDividend_bounds hv).2.trans_lt (by decide)) _

/-- Settles O33: every dividend is below `2 ^ 16`, so no quotient is cut, and the de-biased values are the rule's. -/
theorem rescaleRatioFormula : Obligations.RescaleRatioFormula := by
  unfold Obligations.RescaleRatioFormula
  intro cur v _
  dsimp only
  rw [← requestedBrightness_toNat, ← storedBrightness_toNat]
  exact ⟨rescaleRatio_toNat cur v, fun _ hv => rescaleDividend_bounds hv⟩

/-- A byte times a 16-bit ratio fits 24 bits (R124). -/
theorem byte_mul_half_lt (p : Byte) (k : Half) : p.toNat * k.toNat < 2 ^ 24 :=
  calc p.toNat * k.toNat
    _ < 2 ^ 8 * 2 ^ 16 := Nat.mul_lt_mul'' p.isLt k.isLt
    _ = 2 ^ 24 := by decide

/-- The 24-bit product of a byte and a ratio loses no bit (R124). -/
theorem toNat_mul_setWidth_24 (p : Byte) (k : Half) : (p.setWidth 24 * k.setWidth 24).toNat = p.toNat * k.toNat := by
  rw [BitVec.toNat_mul, BitVec.toNat_setWidth_of_le (by decide), BitVec.toNat_setWidth_of_le (by decide),
    Nat.mod_eq_of_lt (byte_mul_half_lt p k)]

/-- Settles O34: the 24-bit product is exact, and both sides keep the low byte of its upper 16 bits. -/
theorem rescaleByteIsTheFixedPointFormula : Obligations.RescaleByteIsTheFixedPointFormula := by
  unfold Obligations.RescaleByteIsTheFixedPointFormula
  refine fun p k => ⟨?_, toNat_mul_setWidth_24 p k, byte_mul_half_lt p k⟩
  rw [rescaleByte, ← BitVec.ofNat_toNat 8, BitVec.toNat_ushiftRight, toNat_mul_setWidth_24, Nat.shiftRight_eq_div_pow]

/-! ### The commands: SETBRI and GETBRI -/

/-- A rescale to the current stored value changes nothing (R122). -/
theorem State.rescale_of_stored_eq {s : State} {v : Byte} (h : storedBrightness v = s.brt) : s.rescale v = s :=
  if_pos h

/-- A rescale leaves the ports alone (R125). -/
theorem State.samePorts_rescale (s : State) (v : Byte) : SamePorts s (s.rescale v) :=
  ⟨(s.rescale_params v).symm, (s.rescale_inReset v).symm, (s.rescale_inputs v).symm⟩

/-- A rescale keeps the architectural state exactly when the stored value is the current one: any other changes `BRT`
(R122). -/
theorem State.sameArch_rescale_iff (s : State) (v : Byte) : SameArch s (s.rescale v) ↔ storedBrightness v = s.brt := by
  constructor
  case mp => exact fun h => (s.rescale_brt v).symm.trans h.brt.symm
  case mpr =>
    intro h
    rw [State.rescale_of_stored_eq h]
    exact ⟨rfl, rfl, rfl⟩

/-- A response is no architectural state (R20). -/
theorem SameArch.respond_iff {s u : State} (r : Response) : SameArch s (u.respond r) ↔ SameArch s u :=
  ⟨fun ⟨hpix, hlen, hbrt⟩ => ⟨hpix, hlen, hbrt⟩, fun ⟨hpix, hlen, hbrt⟩ => ⟨hpix, hlen, hbrt⟩⟩

/-- Settles O32: SETBRI always leaves the new stored value in `BRT`, so a state that is kept had it already. -/
theorem setbriIsNoOpExactlyWhenStoredValueIsCurrent : Obligations.SetbriIsNoOpExactlyWhenStoredValueIsCurrent := by
  unfold Obligations.SetbriIsNoOpExactlyWhenStoredValueIsCurrent
  exact fun s v => ⟨_, exec_setbri v s, (SameArch.respond_iff emptyResponse).trans (s.sameArch_rescale_iff v)⟩

/-- Settles O35: a rescale that is not a no-op maps the bytes below `3*LEN` alone, by the ratio of the old `BRT`. -/
theorem setbriRescalesEveryLiveByte : Obligations.SetbriRescalesEveryLiveByte := by
  unfold Obligations.SetbriRescalesEveryLiveByte
  refine fun v => ⟨decode_encode (.setbri v), fun s h => ?_, fun s hw h => ?_⟩
  · rw [exec_setbri, State.rescale_of_stored_eq h, State.respond_empty]
  · exact ⟨_, exec_setbri v s, fun a ha => (State.read_rescale hw h a).trans (if_pos ha),
      fun a ha => (State.read_rescale hw h a).trans (if_neg (Nat.not_lt.2 ha)), s.rescale_brt v, s.rescale_len v,
      State.responses_respond_empty (s.rescale_responses v), (s.samePorts_rescale v).respond _⟩

/-- The response of GETBRI: a byte keeps its value when it is extended to `DATA` and to the response word (R63). -/
theorem responseWord_byte (b : Byte) : responseWord (dataResponse (b.setWidth 32)) = b.setWidth 64 := by
  rw [responseWord_data, BitVec.setWidth_setWidth (by decide)]

/-- Settles O36: the response is the de-biased `BRT`, and after SETBRI `v` removing the bias gives back `v`. -/
theorem getbriReturnsTheRequestedBrightness : Obligations.GetbriReturnsTheRequestedBrightness := by
  unfold Obligations.GetbriReturnsTheRequestedBrightness
  refine ⟨decode_encode .getbri, fun s => ?_, fun s v => ⟨_, _, exec_setbri v s, exec_getbri _, ?_⟩⟩
  · rw [exec_getbri, State.respond_eq, responseWord_byte, ← requestedBrightness_toNat, BitVec.ofNat_toNat]
  · rw [State.respond_responses, State.respond_brt, s.rescale_brt v, requestedBrightness_stored, responseWord_byte,
      State.responses_respond_empty (s.rescale_responses v), List.append_assoc]
    rfl

end Sys2Proof.Machine

/-!
PROOFS. Exceptions (spec/60_exceptions.md): the illegal request, the block's only one (R140, R141).
-/

namespace Sys2Proof.Machine

/-! ### The rejection of an illegal request -/

/-- Rejecting a request appends the response with `ILL = 1` and every other field 0, and writes no other field (R63,
R141). -/
theorem State.rejectIllegal_eq (s : State) :
    s.rejectIllegal = { s with responses := s.responses ++ [0x0100000000000000] } := by
  rw [State.rejectIllegal, State.respond_eq, responseWord_illegal]

/-- Settles O7: with reset not asserted the request is taken and rejected, and rejecting appends one response alone. -/
theorem stepRejectsAnIllegalRequest : Obligations.StepRejectsAnIllegalRequest := by
  unfold Obligations.StepRejectsAnIllegalRequest
  intro s w rest e hinputs hreset hdecode
  calc step s = .next (if s.inReset then s.setInputs rest else (s.setInputs rest).rejectIllegal) :=
        step_of_illegal_request hinputs hdecode
    _ = .next (s.setInputs rest).rejectIllegal := by rw [hreset, if_neg Bool.false_ne_true]
    _ = .next { s with inputs := rest, responses := s.responses ++ [0x0100000000000000] } := by
        rw [State.rejectIllegal_eq, State.setInputs]

end Sys2Proof.Machine

/-!
PROOFS. Reset (spec/70_reset_and_hazards.md R160, R161): what the host inputs that reset the block leave, what becomes
of a request that meets a reset, and the one command that brings `BRT` back to 0.
-/

namespace Sys2Proof.Machine

/-! ### Steps on the inputs that reset the block -/

/-- Reset puts the architectural state into the values it has after power-up (R32, R160). -/
theorem State.sameArch_resetBlock (s : State) : SameArch s.resetBlock (State.powerUp s.params) where
  pix := s.resetBlock_pix
  len := s.resetBlock_len
  brt := s.resetBlock_brt

/-- Asserting reset takes the input, raises the reset level and resets the block (R160). -/
theorem step_of_assertReset {s : State} {rest : List HostInput} (h : s.inputs = .assertReset :: rest) :
    step s = .next ((s.setInputs rest).setInReset true).resetBlock :=
  step_of_settled (by rw [State.takeInput, h])

/-- Of a command cut by reset only the reset is left: its request word has no effect (R161). -/
theorem step_of_requestCutByReset {s : State} {w : Request} {rest : List HostInput}
    (h : s.inputs = .requestCutByReset w :: rest) :
    step s = .next ((s.setInputs rest).setInReset true).resetBlock :=
  step_of_settled (by rw [State.takeInput, h])

/-- A power cycle takes the input and resets the block; the reset level stays what the host last made it (R160). -/
theorem step_of_powerCycle {s : State} {rest : List HostInput} (h : s.inputs = .powerCycle :: rest) :
    step s = .next (s.setInputs rest).resetBlock :=
  step_of_settled (by rw [State.takeInput, h])

/-- A request presented while reset is asserted is dropped: no command is taken (R161). -/
theorem step_of_request_inReset {s : State} {w : Request} {rest : List HostInput}
    (h : s.inputs = .request w :: rest) (hreset : s.inReset = true) : step s = .next (s.setInputs rest) :=
  step_of_settled (by rw [State.takeInput_of_request h, if_pos hreset])

/-! ### What a command leaves in `BRT` -/

/-- A response does not touch `BRT`: a command that ends by responding leaves the `BRT` it had before the response. -/
theorem brt_of_exec {i : Instr} {s t u : State} {r : Response} (hexec : exec i s = .next (u.respond r))
    (h : exec i s = .next t) : t.brt = u.brt := by
  rw [hexec] at h
  rw [← Host.Outcome.next.inj h, State.respond_brt]

/-- Every command keeps `BRT`, except that SETBRI `v` leaves the stored value of `v` there (R24, R131). -/
theorem exec_brt_cases {i : Instr} {s t : State} (h : exec i s = .next t) :
    t.brt = s.brt ∨ ∃ v, i = .setbri v ∧ t.brt = storedBrightness v := by
  cases i with
  | pack r g b => exact .inl (brt_of_exec (exec_pack r g b s) h)
  | unpack c => exact .inl (brt_of_exec (exec_unpack c s) h)
  | setpix n c => exact .inl ((brt_of_exec (exec_setpix n c s) h).trans (s.writePixel_brt n c))
  | getpix n => exact .inl (brt_of_exec (exec_getpix n s) h)
  | fill c first count =>
    exact .inl ((brt_of_exec (exec_fill c first count s) h).trans (s.fillPixels_brt c first count))
  | clear => exact .inl ((brt_of_exec (exec_clear s) h).trans (s.setPix_brt (Memory.zeroBelow s.pix s.liveBytes)))
  | resize n => exact .inl ((brt_of_exec (exec_resize n s) h).trans (s.allocate_brt n))
  | length => exact .inl (brt_of_exec (exec_length s) h)
  | setbri v => exact .inr ⟨v, rfl, (brt_of_exec (exec_setbri v s) h).trans (s.rescale_brt v)⟩
  | getbri => exact .inl (brt_of_exec (exec_getbri s) h)
  | rdraw n => exact .inl (brt_of_exec (exec_rdraw n s) h)

/-- Only the requested brightness 255 wraps to the stored value 0, which means unset (R120). -/
theorem storedBrightness_eq_zero_iff (v : Byte) : storedBrightness v = 0 ↔ v = 255 := by
  unfold storedBrightness
  bv_omega

/-! ### The reset state, and requests during reset -/

/-- Settles O47: both inputs end in the block's reset, and a command that writes `BRT` is a SETBRI, which stores 0 for
255 alone. -/
theorem resetInputRestoresTheResetState : Obligations.ResetInputRestoresTheResetState := by
  unfold Obligations.ResetInputRestoresTheResetState
  refine ⟨fun s rest h => ?_, fun s rest h => ?_, fun i s t h hzero => ?_⟩
  · exact ⟨_, step_of_assertReset h, State.sameArch_resetBlock _, rfl, rfl⟩
  · exact ⟨_, step_of_powerCycle h, State.sameArch_resetBlock _, rfl, rfl⟩
  · rcases exec_brt_cases h with hkept | ⟨v, rfl, hstored⟩
    · exact .inl (hkept.symm.trans hzero)
    · have hv : v = 255 := (storedBrightness_eq_zero_iff v).1 (hstored.symm.trans hzero)
      exact .inr (congrArg Instr.setbri hv)

/-- Settles O48: a cut command is a reset alone, which returns no response, and a request during reset is dropped. -/
theorem requestsDuringResetAreNotServed : Obligations.RequestsDuringResetAreNotServed := by
  unfold Obligations.RequestsDuringResetAreNotServed
  refine ⟨fun s w rest h => ?_, fun s w rest h hreset => ?_⟩
  · exact ⟨_, step_of_requestCutByReset h, rfl, State.sameArch_resetBlock _, rfl, rfl⟩
  · exact step_of_request_inReset h hreset

end Sys2Proof.Machine

/-!
PROOFS. The two round trips between commands and request words (spec/30_encoding.md R61 to R66) and what the assembler
makes of a line (R69, R70).
-/

namespace Sys2Proof

/-! ### The round trips -/

/-- Settles O1: no row before a command's own has its opcode, and its own row hands every operand back. -/
theorem decodeOfEncodeIsTheCommand : Obligations.DecodeOfEncodeIsTheCommand := by
  unfold Obligations.DecodeOfEncodeIsTheCommand
  exact decode_encode

/-- Peels one row off the decoder's answer: a command comes from this row or from the rows below. -/
theorem ite_ok_eq_ok_cases {ε α : Type} {p : Prop} [Decidable p] {a b : α} {x : Except ε α}
    (h : (if p then .ok a else x) = .ok b) : (p ∧ a = b) ∨ x = .ok b := by
  split at h
  case isTrue hp => exact .inl ⟨hp, Except.ok.inj h⟩
  case isFalse => exact .inr h

/-- Fields that decode to a command are the fields of that command: what the row does not pass on it requires to be 0
(R64, R66). -/
theorem instrFields_of_decode {f : Fields} {i : Instr} (h : decode (fieldsWord f) = .ok i) : instrFields i = f := by
  obtain ⟨op, p2, p1, p0, cnt, idx, col⟩ := f
  rw [decode_fieldsWord] at h
  rcases ite_ok_eq_ok_cases h with ⟨⟨rfl, rfl, rfl, rfl⟩, rfl⟩ | h
  · rfl -- PACK
  rcases ite_ok_eq_ok_cases h with ⟨⟨rfl, rfl, rfl, rfl, rfl, rfl⟩, rfl⟩ | h
  · rfl -- UNPACK
  rcases ite_ok_eq_ok_cases h with ⟨⟨rfl, rfl, rfl, rfl, rfl⟩, rfl⟩ | h
  · rfl -- SETPIX
  rcases ite_ok_eq_ok_cases h with ⟨⟨rfl, rfl, rfl, rfl, rfl, rfl⟩, rfl⟩ | h
  · rfl -- GETPIX
  rcases ite_ok_eq_ok_cases h with ⟨⟨rfl, rfl, rfl, rfl⟩, rfl⟩ | h
  · rfl -- FILL
  rcases ite_ok_eq_ok_cases h with ⟨⟨rfl, rfl, rfl, rfl, rfl, rfl, rfl⟩, rfl⟩ | h
  · rfl -- CLEAR
  rcases ite_ok_eq_ok_cases h with ⟨⟨rfl, rfl, rfl, rfl, rfl, rfl⟩, rfl⟩ | h
  · rfl -- RESIZE
  rcases ite_ok_eq_ok_cases h with ⟨⟨rfl, rfl, rfl, rfl, rfl, rfl, rfl⟩, rfl⟩ | h
  · rfl -- LENGTH
  rcases ite_ok_eq_ok_cases h with ⟨⟨rfl, rfl, rfl, rfl, rfl, rfl⟩, rfl⟩ | h
  · rfl -- SETBRI
  rcases ite_ok_eq_ok_cases h with ⟨⟨rfl, rfl, rfl, rfl, rfl, rfl, rfl⟩, rfl⟩ | h
  · rfl -- GETBRI
  rcases ite_ok_eq_ok_cases h with ⟨⟨rfl, rfl, rfl, rfl, rfl, rfl⟩, rfl⟩ | h
  · rfl -- RDRAW
  cases h

/-- Settles O2: a word is made of its fields, and those that decode to a command are the command's. -/
theorem encodeOfDecodeIsTheRequest : Obligations.EncodeOfDecodeIsTheRequest := by
  unfold Obligations.EncodeOfDecodeIsTheRequest
  intro w i h
  rw [← fieldsWord_requestFields w] at h
  rw [encode, instrFields_of_decode h, fieldsWord_requestFields]

/-- Settles O5: each word is the request word of its command. -/
theorem sampleRequestWordsDecode : Obligations.SampleRequestWordsDecode := by
  unfold Obligations.SampleRequestWordsDecode
  exact ⟨decode_encode (.pack 0x12 0x34 0x56), decode_encode (.unpack 0xAB123456),
    decode_encode (.setpix 2 0x0ABCDEF1), decode_encode (.fill 0x00ABCDEF 0xFFF0 0x0020), decode_encode (.setbri 128)⟩

end Sys2Proof

namespace Sys2Proof.Machine

/-! ### The colour codec's laws -/

/-- Packing and then unpacking gives the channels back (R84). -/
@[simp] theorem unpackColor_packColor (x : Rgb) : unpackColor (packColor x) = x := by
  obtain ⟨hred, hgreen, hblue⟩ := unpackColor_toNat (packColor x)
  rw [packColor_toNat] at hred hgreen hblue
  simp only [Rgb.ext_iff, ← BitVec.toNat_inj]
  exact ⟨by omega, by omega, by omega⟩

/-- Unpacking and then packing keeps the low 24 bits, as a number (R84). -/
theorem packColor_unpackColor_toNat (c : Color) : (packColor (unpackColor c)).toNat = c.toNat % 2 ^ 24 := by
  obtain ⟨hred, hgreen, hblue⟩ := unpackColor_toNat c
  rw [packColor_toNat, hred, hgreen, hblue]
  omega

/-- Unpacking and then packing masks the top byte (R84). -/
theorem packColor_unpackColor (c : Color) : packColor (unpackColor c) = c &&& 0x00FFFFFF := by
  apply BitVec.eq_of_toNat_eq
  rw [packColor_unpackColor_toNat, BitVec.toNat_and]
  exact (Nat.and_two_pow_sub_one_eq_mod c.toNat 24).symm

/-- Different channels pack to different colours (R84). -/
theorem packColor_injective : Function.Injective packColor :=
  Function.LeftInverse.injective unpackColor_packColor

/-- A colour with top byte 0 is the packing of its channels (R84). -/
theorem packColor_unpackColor_of_top_zero {c : Color} (h : c.extractLsb' 24 8 = 0) : packColor (unpackColor c) = c := by
  have htop : c.toNat / 2 ^ 24 % 2 ^ 8 = 0 := by
    have := congrArg BitVec.toNat h
    rwa [BitVec.extractLsb'_toNat, Nat.shiftRight_eq_div_pow] at this
  apply BitVec.eq_of_toNat_eq
  rw [packColor_unpackColor_toNat]
  omega

/-- The channels are those of the low 24 bits (R81, R84). -/
theorem unpackColor_congr {c d : Color} (h : c.extractLsb' 0 24 = d.extractLsb' 0 24) :
    unpackColor c = unpackColor d := by
  have hlow : c.toNat % 2 ^ 24 = d.toNat % 2 ^ 24 := by
    have := congrArg BitVec.toNat h
    rwa [BitVec.extractLsb'_toNat, BitVec.extractLsb'_toNat] at this
  apply packColor_injective
  apply BitVec.eq_of_toNat_eq
  rw [packColor_unpackColor_toNat, packColor_unpackColor_toNat, hlow]

/-- Settles O14: unpacking undoes packing, and packing after unpacking keeps exactly the low 24 bits. -/
theorem codecRoundTrips : Obligations.CodecRoundTrips := by
  unfold Obligations.CodecRoundTrips
  refine ⟨unpackColor_packColor, packColor_unpackColor, packColor_injective, fun c d hc hd h => ?_,
    fun c d => unpackColor_congr⟩
  rw [← packColor_unpackColor_of_top_zero hc, h, packColor_unpackColor_of_top_zero hd]

/-! ### The assembler -/

/-- A line whose operands fit assembles to the command it stands for (R69). -/
theorem assemble_of_wellFormed {l : AsmLine} (h : l.wellFormed = true) : assemble l = .ok (expandLine l) :=
  if_pos h

/-- A line with an operand that does not fit its field is refused (R69). -/
theorem assemble_of_not_wellFormed {l : AsmLine} (h : l.wellFormed = false) : assemble l = .error .operandTooWide :=
  if_neg (Bool.not_eq_true _ ▸ h)

/-- A line whose operands fit and that stands for `i` assembles to `i` (R69). -/
theorem assemble_eq_ok {l : AsmLine} {i : Instr} (hfit : l.wellFormed = true) (hcmd : expandLine l = i) :
    assemble l = .ok i :=
  hcmd ▸ assemble_of_wellFormed hfit

/-- Settles O51: the number of an operand fits that operand's field, and narrowing it gives the operand back. -/
theorem assemblerRefusesOperandsThatDoNotFit : Obligations.AssemblerRefusesOperandsThatDoNotFit := by
  unfold Obligations.AssemblerRefusesOperandsThatDoNotFit
  refine ⟨fun l => assemble_of_not_wellFormed, fun r g b => ?pack, fun c => ?unpack, fun i c => ?setpix,
    fun i => ?getpix, fun c first count => ?fill, assemble_eq_ok rfl rfl, fun n => ?resize, assemble_eq_ok rfl rfl,
    fun v => ?setbri, assemble_eq_ok rfl rfl, fun i => ?rdraw⟩
  all_goals
    refine assemble_eq_ok ?_ ?_
    · simp only [AsmLine.wellFormed, BitVec.isLt, decide_true, Bool.and_self]
    · simp only [expandLine, BitVec.ofNat_toNat, BitVec.setWidth_eq]

/-- The colour that SETRGB packs by shifts is the packed colour of its channels (R70, R80). -/
theorem ofNat_shifted_channels (r g b : Byte) :
    BitVec.ofNat 32 ((r.toNat <<< 16) ||| (g.toNat <<< 8) ||| b.toNat) = packColor ⟨r, g, b⟩ := by
  have hr : r.toNat <<< 16 < 2 ^ 32 := by rw [Nat.shiftLeft_eq]; omega
  have hg : g.toNat <<< 8 < 2 ^ 32 := by rw [Nat.shiftLeft_eq]; omega
  apply BitVec.eq_of_toNat_eq
  rw [BitVec.toNat_ofNat, Nat.mod_eq_of_lt (shifted_channels_lt r g b)]
  simp only [packColor, BitVec.toNat_or, BitVec.toNat_shiftLeft, BitVec.toNat_setWidth_of_le (by decide : 8 ≤ 32),
    Nat.mod_eq_of_lt hr, Nat.mod_eq_of_lt hg]

/-- Settles O53: the shifted channels are the packed colour, and unpacking undoes packing. -/
theorem setrgbIsSetpixOfThePackedChannels : Obligations.SetrgbIsSetpixOfThePackedChannels := by
  unfold Obligations.SetrgbIsSetpixOfThePackedChannels
  refine fun index r g b => ⟨packColor ⟨r, g, b⟩, assemble_eq_ok ?_ ?_, rfl, unpackColor_packColor _⟩
  · simp only [AsmLine.wellFormed, BitVec.isLt, decide_true, Bool.and_self]
  · simp only [expandLine, ofNat_shifted_channels, BitVec.ofNat_toNat, BitVec.setWidth_eq]

end Sys2Proof.Machine

/-!
PROOFS. What a command does, as an effect on the state and a response, and what a step does, as one case per kind of host
input (spec/20_memory.md R50, spec/60_exceptions.md R141, spec/70_reset_and_hazards.md R160 to R166).
-/

namespace Sys2Proof.Machine

/-! ### The effect and the response of a command -/

/-- The state a command leaves before it responds; the reading commands leave the state as it is. -/
def State.effect (s : State) : Instr → State
  | .setpix i c => s.writePixel i c
  | .fill c first count => s.fillPixels c first count
  | .clear => s.setPix (Memory.zeroBelow s.pix s.liveBytes)
  | .resize n => s.allocate n
  | .setbri v => s.rescale v
  | _ => s

/-- The response of a command, read off the state before it; a writing command responds with all fields 0. -/
def State.answer (s : State) : Instr → Response
  | .pack r g b => dataResponse (packColor ⟨r, g, b⟩)
  | .unpack c => channelsResponse (unpackColor c)
  | .getpix i => dataResponse (s.readPixel (fun p => rscale p s.brt) i)
  | .length => dataResponse (s.len.setWidth 32)
  | .getbri => dataResponse ((requestedBrightness s.brt).setWidth 32)
  | .rdraw i => dataResponse (s.readPixel (fun p => p) i)
  | _ => emptyResponse

/-- A command is its effect and then its response (R9). -/
theorem exec_eq (i : Instr) (s : State) : exec i s = .next ((s.effect i).respond (s.answer i)) := by
  cases i <;> rfl

/-- The only next state of a command is its effect and then its response. -/
theorem eq_of_exec {i : Instr} {s t : State} (h : exec i s = .next t) : t = (s.effect i).respond (s.answer i) :=
  Host.Outcome.next.inj (h.symm.trans (exec_eq i s))

/-- A command leaves the ports alone. -/
theorem samePorts_of_exec {i : Instr} {s t : State} (h : exec i s = .next t) : SamePorts s t := by
  obtain ⟨t', r, h', -, -, hports⟩ := exec_answers i s
  rwa [Host.Outcome.next.inj (h.symm.trans h')]

/-! ### The cases of a step -/

/-- What a step does, by the host's next input: one case per kind of input, a request in its three ways (R141, R150, R160,
R161). -/
inductive StepsTo (s : State) : State → Prop where
  /-- No input: the block waits. -/
  | waits (hin : s.inputs = []) : StepsTo s s
  /-- A request presented while reset is asserted is dropped. -/
  | drops {w : Request} {rest : List HostInput} (hin : s.inputs = .request w :: rest) (hreset : s.inReset = true) :
      StepsTo s (s.setInputs rest)
  /-- A legal request is executed. -/
  | executes {w : Request} {rest : List HostInput} {i : Instr} {t : State} (hin : s.inputs = .request w :: rest)
      (hreset : s.inReset = false) (hdecode : decode w = .ok i) (hexec : exec i (s.setInputs rest) = .next t) :
      StepsTo s t
  /-- An illegal request is rejected. -/
  | rejects {w : Request} {rest : List HostInput} {e : IllegalCommand} (hin : s.inputs = .request w :: rest)
      (hreset : s.inReset = false) (hdecode : decode w = .error e) : StepsTo s (s.setInputs rest).rejectIllegal
  /-- Reset is asserted, between commands or during one. -/
  | resets {rest : List HostInput}
      (hin : s.inputs = .assertReset :: rest ∨ ∃ w, s.inputs = .requestCutByReset w :: rest) :
      StepsTo s ((s.setInputs rest).setInReset true).resetBlock
  /-- Reset is released. -/
  | releases {rest : List HostInput} (hin : s.inputs = .releaseReset :: rest) :
      StepsTo s ((s.setInputs rest).setInReset false)
  /-- The block is powered up again. -/
  | powers {rest : List HostInput} (hin : s.inputs = .powerCycle :: rest) : StepsTo s (s.setInputs rest).resetBlock

/-- A served request that decodes to a command is that command on the state with the request taken (R66, R150). -/
theorem step_of_legal_request {s : State} {w : Request} {rest : List HostInput} {i : Instr}
    (hin : s.inputs = .request w :: rest) (hreset : s.inReset = false) (hdecode : decode w = .ok i) :
    step s = exec i (s.setInputs rest) := by
  have htake : s.takeInput = .command w (s.setInputs rest) := by
    rw [State.takeInput_of_request hin, hreset, if_neg Bool.false_ne_true]
  rw [step_of_command htake, hdecode]

/-- A served request that decodes to no command is rejected (R141). -/
theorem step_of_served_illegal_request {s : State} {w : Request} {rest : List HostInput} {e : IllegalCommand}
    (hin : s.inputs = .request w :: rest) (hreset : s.inReset = false) (hdecode : decode w = .error e) :
    step s = .next (s.setInputs rest).rejectIllegal := by
  rw [step_of_illegal_request hin hdecode, hreset, if_neg Bool.false_ne_true]

/-- Every step answers a next state by one of the cases. -/
theorem step_stepsTo (s : State) : ∃ t, step s = .next t ∧ StepsTo s t := by
  rcases s.takeInput_cases with ⟨hin, h⟩ | ⟨w, rest, hin, hreset, h⟩ | ⟨w, rest, hin, hreset, -⟩ | ⟨rest, hin, h⟩ |
    ⟨rest, hin, h⟩ | ⟨rest, hin, h⟩
  · exact ⟨_, step_of_settled h, .waits hin⟩
  · exact ⟨_, step_of_settled h, .drops hin hreset⟩
  · cases hdecode : decode w with
    | ok i =>
      have hexec := exec_eq i (s.setInputs rest)
      exact ⟨_, (step_of_legal_request hin hreset hdecode).trans hexec, .executes hin hreset hdecode hexec⟩
    | error e => exact ⟨_, step_of_served_illegal_request hin hreset hdecode, .rejects hin hreset hdecode⟩
  · exact ⟨_, step_of_settled h, .resets hin⟩
  · exact ⟨_, step_of_settled h, .releases hin⟩
  · exact ⟨_, step_of_settled h, .powers hin⟩

/-- The state after a step comes from one of the cases. -/
theorem stepsTo_of_step {s t : State} (h : step s = .next t) : StepsTo s t := by
  obtain ⟨t', h', hcase⟩ := step_stepsTo s
  rw [Host.Outcome.next.inj (h.symm.trans h')]
  exact hcase

/-! ### Inputs, waiting, and the reset level -/

/-- Settles O6: a request is taken unless reset is asserted, and a taken one that decodes is executed. -/
theorem stepRunsTheDecodedCommand : Obligations.StepRunsTheDecodedCommand := by
  unfold Obligations.StepRunsTheDecodedCommand
  exact fun _ _ _ _ => step_of_legal_request

/-- Settles O11: with no input, taking the next input settles on the same state. -/
theorem waitingChangesNothing : Obligations.WaitingChangesNothing := by
  unfold Obligations.WaitingChangesNothing
  exact fun s hin => step_of_settled (by rw [State.takeInput, hin])

/-- A step takes the host's first input and keeps the parameters. -/
theorem StepsTo.inputs_params {s t : State} (h : StepsTo s t) : t.inputs = s.inputs.tail ∧ t.params = s.params := by
  cases h with
  | waits hin => exact ⟨by rw [hin]; rfl, rfl⟩
  | drops hin => exact ⟨by rw [hin]; rfl, rfl⟩
  | executes hin _ _ hexec =>
    obtain ⟨hparams, -, hinputs⟩ := samePorts_of_exec hexec
    exact ⟨by rw [hin]; exact hinputs.symm, hparams.symm⟩
  | rejects hin => exact ⟨by rw [hin]; rfl, rfl⟩
  | resets hin => rcases hin with hin | ⟨w, hin⟩ <;> exact ⟨by rw [hin]; rfl, rfl⟩
  | releases hin => exact ⟨by rw [hin]; rfl, rfl⟩
  | powers hin => exact ⟨by rw [hin]; rfl, rfl⟩

/-- Settles O8: every kind of input is dealt with in one step, and a command answers a next state too. -/
theorem everyStepAnswersNext : Obligations.EveryStepAnswersNext := by
  unfold Obligations.EveryStepAnswersNext
  intro s
  obtain ⟨t, hstep, hcase⟩ := step_stepsTo s
  exact ⟨t, hstep, hcase.inputs_params⟩

/-- Settles O49: the inputs that assert or release reset set its level, and no other input, commands included, does. -/
theorem resetLevelFollowsTheHost : Obligations.ResetLevelFollowsTheHost := by
  unfold Obligations.ResetLevelFollowsTheHost
  intro s t h
  cases stepsTo_of_step h with
  | waits hin => rw [hin]
  | drops hin => rw [hin]; rfl
  | executes hin _ _ hexec => rw [hin]; exact (samePorts_of_exec hexec).inReset.symm
  | rejects hin => rw [hin]; rfl
  | resets hin => rcases hin with hin | ⟨w, hin⟩ <;> rw [hin] <;> rfl
  | releases hin => rw [hin]; rfl
  | powers hin => rw [hin]; rfl

/-- Settles O50: releasing reset clears the level alone, so the request behind it is served. -/
theorem releasingResetChangesNothingHeld : Obligations.ReleasingResetChangesNothingHeld := by
  unfold Obligations.ReleasingResetChangesNothingHeld
  intro s w rest i hin hdecode
  have hstep : step s = .next ((s.setInputs (.request w :: rest)).setInReset false) :=
    step_of_settled (by rw [State.takeInput, hin])
  exact ⟨_, hstep, ⟨rfl, rfl, rfl⟩, rfl, step_of_legal_request rfl rfl hdecode⟩

/-! ### The responses -/

/-- A served request gets one response, with `ILL` set exactly when it is illegal, and nothing else changes at the ports
but that it is taken (R141, R150). -/
theorem step_of_served_request {s : State} {w : Request} {rest : List HostInput}
    (hin : s.inputs = .request w :: rest) (hreset : s.inReset = false) :
    ∃ t r, step s = .next t ∧ t.responses = s.responses ++ [responseWord r] ∧
      (r.ill = true ↔ ∃ e, decode w = .error e) ∧ SamePorts (s.setInputs rest) t := by
  cases hdecode : decode w with
  | ok i =>
    obtain ⟨t, r, hexec, hill, hresp, hports⟩ := exec_answers i (s.setInputs rest)
    exact ⟨t, r, (step_of_legal_request hin hreset hdecode).trans hexec, hresp, by simp [hill], hports⟩
  | error e =>
    exact ⟨_, illegalResponse, step_of_served_illegal_request hin hreset hdecode, rfl, by simp [illegalResponse],
      ⟨rfl, rfl, rfl⟩⟩

/-- Bits 63:57 of a response word are 0 (R63). -/
theorem responseWord_top (r : Response) : (responseWord r).extractLsb' 57 7 = 0 := by
  have hill := Bool.toNat_lt r.ill
  apply BitVec.eq_of_toNat_eq
  rw [BitVec.extractLsb'_toNat, Nat.shiftRight_eq_div_pow, responseWord_toNat]
  change _ = 0
  omega

/-- Bit 56 of a response word is `ILL` (R63). -/
theorem responseWord_bit_ill (r : Response) : (responseWord r).getLsbD 56 = r.ill := by
  have hbit : (responseWord r).toNat / 2 ^ 56 = r.ill.toNat := by
    rw [responseWord_toNat]
    omega
  rw [BitVec.getLsbD, Nat.testBit_eq_decide_div_mod_eq, hbit]
  cases r.ill <;> rfl

/-- Settles O10: bit 56 is the response's `ILL`, which a rejection sets and no command does. -/
theorem responseIllBitMarksIllegalRequests : Obligations.ResponseIllBitMarksIllegalRequests := by
  unfold Obligations.ResponseIllBitMarksIllegalRequests
  intro s t w rest hin hreset hstep
  obtain ⟨t', r, hstep', hresp, hill, -⟩ := step_of_served_request hin hreset
  cases hstep.symm.trans hstep'
  exact ⟨responseWord r, hresp, responseWord_top r, by rw [responseWord_bit_ill, hill]⟩

/-- One step and then `k` steps. -/
theorem run_succ_of_step {s t : State} (h : step s = .next t) (k : Nat) :
    Host.Core.run Sys2Proof.core (k + 1) s = Host.Core.run Sys2Proof.core k t := by
  have hcore : Sys2Proof.core.step s = .next t := h
  simp only [Host.Core.run, hcore]

/-- With reset released, `k` steps over waiting requests serve the first `k` of them, in order (R50, R166). -/
theorem run_serves_requests (ws : List Request) :
    ∀ s : State, s.inReset = false → s.inputs = ws.map HostInput.request →
      ∃ rs : List ResponseWord, rs.length = ws.length ∧ ∀ k ≤ ws.length, ∃ t : State,
        Host.Core.run Sys2Proof.core k s = .next t ∧ t.inputs = (ws.drop k).map HostInput.request ∧
        t.responses = s.responses ++ rs.take k ∧ t.inReset = false := by
  induction ws with
  | nil =>
    intro s hreset hin
    refine ⟨[], rfl, fun k hk => ?_⟩
    obtain rfl := Nat.le_zero.1 hk
    exact ⟨s, rfl, hin, by simp, hreset⟩
  | cons w ws ih =>
    intro s hreset hin
    obtain ⟨t, r, hstep, hresp, -, hports⟩ := step_of_served_request hin hreset
    obtain ⟨rs, hlength, hrun⟩ := ih t (hports.inReset.symm.trans hreset) hports.inputs.symm
    refine ⟨responseWord r :: rs, by simp [hlength], fun k hk => ?_⟩
    cases k with
    | zero => exact ⟨s, rfl, hin, by simp, hreset⟩
    | succ k =>
      obtain ⟨u, hu, huin, huresp, hureset⟩ := hrun k (Nat.le_of_succ_le_succ hk)
      exact ⟨u, (run_succ_of_step hstep k).trans hu, huin, by simp [huresp, hresp], hureset⟩

/-- Settles O9: by induction on the requests, each step serves the first one with one response. -/
theorem runReturnsOneResponsePerRequest : Obligations.RunReturnsOneResponsePerRequest := by
  unfold Obligations.RunReturnsOneResponsePerRequest
  exact fun s ws hreset => run_serves_requests ws (s.setInputs (ws.map HostInput.request)) hreset rfl

/-! ### The writers of `BRT` and `LEN` -/

/-- Every command keeps `LEN`, except that RESIZE `n` leaves what allocating `n` entries gives (R23). -/
theorem State.effect_len_cases (s : State) (i : Instr) :
    (s.effect i).len = s.len ∨ ∃ n, i = .resize n ∧ (s.effect i).len = allocLen s.params n := by
  cases i with
  | setpix n c => exact .inl (s.writePixel_len n c)
  | fill c first count => exact .inl (s.fillPixels_len c first count)
  | setbri v => exact .inl (s.rescale_len v)
  | resize n => exact .inr ⟨n, rfl, rfl⟩
  | clear => exact .inl rfl
  | pack | unpack | getpix | length | getbri | rdraw => exact .inl rfl

/-- An allocation of `n` entries leaves the length `n` or 0 (R98). -/
theorem allocLen_eq_or (p : Params) (n : Half) : allocLen p n = n ∨ allocLen p n = 0 := by
  unfold allocLen
  split
  · exact .inl rfl
  · exact .inr rfl

/-- A command that changes `LEN` is a RESIZE, and leaves its operand or 0 (R23, R98). -/
theorem resize_of_exec_len_ne {i : Instr} {s t : State} (h : exec i s = .next t) (hlen : t.len ≠ s.len) :
    ∃ n, i = .resize n ∧ (t.len = n ∨ t.len = 0) := by
  obtain rfl := eq_of_exec h
  rcases s.effect_len_cases i with hkept | ⟨n, rfl, -⟩
  · exact absurd hkept hlen
  · exact ⟨n, rfl, allocLen_eq_or s.params n⟩

/-- A command that changes `BRT` is a SETBRI, and leaves its operand plus 1 (R24, R131). -/
theorem setbri_of_exec_brt_ne {i : Instr} {s t : State} (h : exec i s = .next t) (hbrt : t.brt ≠ s.brt) :
    ∃ v, i = .setbri v ∧ t.brt = v + 1 :=
  (exec_brt_cases h).resolve_left hbrt

/-- Settles O41: a step that is neither a command nor a reset keeps both registers. -/
theorem onlyTheirWritersChangeTheRegisters : Obligations.OnlyTheirWritersChangeTheRegisters := by
  unfold Obligations.OnlyTheirWritersChangeTheRegisters
  refine ⟨fun i s t h => ⟨setbri_of_exec_brt_ne h, resize_of_exec_len_ne h⟩, fun s t h hchanged => ?_⟩
  have hsame (hbrt : t.brt = s.brt) (hlen : t.len = s.len) : False :=
    hchanged.elim (fun hne => hne hbrt) (fun hne => hne hlen)
  cases stepsTo_of_step h with
  | waits => exact (hsame rfl rfl).elim
  | drops => exact (hsame rfl rfl).elim
  | executes hin _ hdecode hexec => exact .inl ⟨_, _, _, hin, hdecode, hexec⟩
  | rejects => exact (hsame rfl rfl).elim
  | resets hin =>
    refine .inr ⟨rfl, rfl, ?_⟩
    rcases hin with hin | ⟨w, hin⟩
    · exact .inl ⟨_, hin⟩
    · exact .inr (.inl ⟨w, _, hin⟩)
  | releases => exact (hsame rfl rfl).elim
  | powers hin => exact .inr ⟨rfl, rfl, .inr (.inr ⟨_, hin⟩)⟩

end Sys2Proof.Machine

/-!
PROOFS. The bounds of the scaling arithmetic (spec/41_pixel_buffer.md R90, R91, spec/42_brightness.md R123, R124) and the
reachability invariant they keep (spec/10_state.md R23, R30).
-/

namespace Sys2Proof.Machine

/-! ### The bytes of an entry -/

/-- The channel of entry `a / 3` that byte `a` holds (R21). -/
def laneOf (x : Rgb) (a : Nat) : Byte :=
  if a % 3 = 0 then x.red else if a % 3 = 1 then x.green else x.blue

/-- The byte that reading an address gives after a pixel write, by the entry the address belongs to (R92). -/
theorem State.read_writePixel_lane {s : State} (hw : Memory.wf s.pix) (i : Half) (c : Color) (a : Nat) :
    Memory.read (s.writePixel i c).pix a =
      if a / 3 < s.len.toNat ∧ a / 3 = i.toNat then laneOf (s.scaledColor c) a else Memory.read s.pix a := by
  rw [State.read_writePixel hw]
  by_cases h : i < s.len
  · have hlt : i.toNat < s.len.toNat := BitVec.lt_def.1 h
    rw [if_pos h]
    unfold entryAddr laneOf
    split_ifs <;> first | rfl | omega
  · have hle : s.len.toNat ≤ i.toNat := BitVec.le_def.1 (BitVec.not_lt.1 h)
    rw [if_neg h, if_neg (by omega)]

/-- The byte that reading an address gives after a fill, by the entry the address belongs to (R94). -/
theorem State.read_fillPixels_lane {s : State} (hw : Memory.wf s.pix) (c : Color) (first count : Half) (a : Nat) :
    Memory.read (s.fillPixels c first count).pix a =
      if first.toNat ≤ a / 3 ∧ a / 3 < fillEnd first count s.len then laneOf (s.scaledColor c) a
      else Memory.read s.pix a :=
  State.read_fillPixels hw c first count a

/-- The scaled colour depends on `BRT` alone (R90). -/
theorem State.scaledColor_congr {s t : State} (h : s.brt = t.brt) (c : Color) : s.scaledColor c = t.scaledColor c := by
  rw [State.scaledColor, State.scaledColor, h]

/-! ### The requested brightness bounds what is written -/

/-- At a set brightness the requested one is the stored one minus 1 (R120). -/
theorem requestedBrightness_toNat_of_ne {s : Byte} (hs : s ≠ 0) : (requestedBrightness s).toNat = s.toNat - 1 := by
  have hne : s.toNat ≠ 0 := fun h => hs (BitVec.eq_of_toNat_eq h)
  rw [requestedBrightness_toNat]
  omega

/-- A product of a byte and a positive brightness, shifted, is below the brightness (R90). -/
theorem byte_mul_div_lt (ch : Byte) {n : Nat} (hn : 0 < n) : ch.toNat * n / 2 ^ 8 < n :=
  Nat.div_lt_of_lt_mul (Nat.mul_lt_mul_of_pos_right ch.isLt hn)

/-- What a write stores is at most the requested brightness, the unset state's 255 included (R30, R90). -/
theorem wscale_le_requested (ch s : Byte) : (wscale ch s).toNat ≤ (requestedBrightness s).toNat := by
  by_cases hs : s = 0
  · subst hs
    exact Nat.le_of_lt_succ ch.isLt
  · have hpos : 0 < s.toNat := Nat.pos_of_ne_zero fun h => hs (BitVec.eq_of_toNat_eq h)
    have hlt := byte_mul_div_lt ch hpos
    rw [wscale_toNat hs, requestedBrightness_toNat_of_ne hs]
    omega

/-- Each channel of a scaled colour is at most the requested brightness (R30, R90). -/
theorem State.laneOf_scaledColor_le (s : State) (c : Color) (a : Nat) :
    (laneOf (s.scaledColor c) a).toNat ≤ (requestedBrightness s.brt).toNat := by
  unfold laneOf
  split_ifs
  · exact wscale_le_requested _ _
  · exact wscale_le_requested _ _
  · exact wscale_le_requested _ _

/-- Settles O16: the product of two bytes fits 16 bits, and shifted it stays below the brightness. -/
theorem writeScaleNeverDropsABit : Obligations.WriteScaleNeverDropsABit := by
  unfold Obligations.WriteScaleNeverDropsABit
  intro ch s
  have hprod : ch.toNat * s.toNat ≤ 255 * 255 :=
    Nat.mul_le_mul (Nat.le_of_lt_succ ch.isLt) (Nat.le_of_lt_succ s.isLt)
  refine ⟨toNat_mul_setWidth ch s, hprod, fun hs => ?_⟩
  have hle : (wscale ch s).toNat ≤ s.toNat - 1 := requestedBrightness_toNat_of_ne hs ▸ wscale_le_requested ch s
  exact ⟨wscale_toNat hs, by omega, hle⟩

/-- Settles O18: below the brightness, 256 times the byte is below 256 times the brightness. -/
theorem readInversionIsExactForReachableBytes : Obligations.ReadInversionIsExactForReachableBytes := by
  unfold Obligations.ReadInversionIsExactForReachableBytes
  intro p s hs hp
  have hpos : 0 < s.toNat := Nat.pos_of_ne_zero fun h => hs (BitVec.eq_of_toNat_eq h)
  have hlt : p.toNat * 2 ^ 8 / s.toNat < 2 ^ 8 := Nat.div_lt_of_lt_mul (by omega)
  rw [rscale_toNat hs, Nat.mod_eq_of_lt hlt]

/-- In every branch the old requested brightness times the ratio is below 256 times the new one plus 1 (R123). -/
theorem mul_rescaleRatio_lt (cur v : Byte) :
    (requestedBrightness cur).toNat * (rescaleRatio cur v).toNat < (v.toNat + 1) * 2 ^ 8 := by
  have hv := v.isLt
  rw [rescaleRatio_toNat]
  split
  case isTrue => omega
  case isFalse =>
    split
    case isTrue hv255 =>
      subst hv255
      exact (Nat.mul_div_le _ _).trans_lt (by decide)
    case isFalse hne =>
      have hne' : v.toNat ≠ 255 := fun h => hne (BitVec.eq_of_toNat_eq h)
      refine (Nat.mul_div_le _ _).trans_lt ?_
      rw [storedBrightness_toNat]
      omega

/-- A byte within the old requested brightness is rescaled to one within the new, with no bit carried out (R123, R124). -/
theorem shifted_rescale_le {cur p : Byte} (hp : p.toNat ≤ (requestedBrightness cur).toNat) (v : Byte) :
    p.toNat * (rescaleRatio cur v).toNat / 2 ^ 8 ≤ v.toNat := by
  have hlt := (Nat.mul_le_mul_right (rescaleRatio cur v).toNat hp).trans_lt (mul_rescaleRatio_lt cur v)
  exact Nat.le_of_lt_succ (Nat.div_lt_of_lt_mul (by omega))

/-! ### Live bytes in states that meet the invariant -/

/-- R30 in one bound: the unset brightness is the requested 255, which bounds every byte. -/
theorem State.bytesWithinBrightness_iff (s : State) :
    s.BytesWithinBrightness ↔
      ∀ a < s.liveBytes, (Memory.read s.pix a).toNat ≤ (requestedBrightness s.brt).toNat := by
  by_cases hbrt : s.brt = 0
  · have hle : ∀ a < s.liveBytes, (Memory.read s.pix a).toNat ≤ (requestedBrightness s.brt).toNat := fun a _ => by
      rw [hbrt]
      exact Nat.le_of_lt_succ (Memory.read s.pix a).isLt
    exact iff_of_true (fun hne => absurd hbrt hne) hle
  · rw [State.BytesWithinBrightness, requestedBrightness_toNat_of_ne hbrt]
    exact ⟨fun h => h hbrt, fun h _ => h⟩

/-- In a state that meets the invariant no live byte is above the requested brightness (R30). -/
theorem State.Inv.read_le {s : State} (h : s.Inv) {a : Nat} (ha : a < s.liveBytes) :
    (Memory.read s.pix a).toNat ≤ (requestedBrightness s.brt).toNat :=
  s.bytesWithinBrightness_iff.1 h.bytes a ha

/-- Settles O21: at the stored brightness 1 the invariant leaves no byte but 0. -/
theorem getpixAtRequestedZeroIsBlack : Obligations.GetpixAtRequestedZeroIsBlack := by
  unfold Obligations.GetpixAtRequestedZeroIsBlack
  intro s i hinv hbrt
  have hzero : ∀ a < s.liveBytes, Memory.read s.pix a = 0 := fun a ha => by
    have hle := hinv.read_le ha
    rw [hbrt] at hle
    exact BitVec.eq_of_toNat_eq (Nat.le_zero.1 hle)
  have hread : s.readPixel (fun p => rscale p s.brt) i = 0 :=
    State.readPixel_of_live_zero hzero (f := fun p => rscale p s.brt) (rscale_zero s.brt) i
  rw [exec_getpix, hread]
  exact congrArg _ s.respond_empty

/-- Settles O37: a live byte is within the old requested brightness, so its shifted product is within the new; a byte 200
at the stored brightness 2 is not, and carries under SETBRI 2. -/
theorem rescaleNeverCarriesInReachableStates : Obligations.RescaleNeverCarriesInReachableStates := by
  unfold Obligations.RescaleNeverCarriesInReachableStates
  refine ⟨fun s v hinv _ a ha => ?_, 2, by decide, by decide⟩
  have hle := shifted_rescale_le (hinv.read_le ha) v
  refine ⟨hle.trans (Nat.le_of_lt_succ v.isLt), fun hne => ?_⟩
  have hstored := requestedBrightness_toNat_of_ne (s := storedBrightness v) hne
  rw [requestedBrightness_stored] at hstored
  exact hle.trans_eq hstored

/-! ### The operations keep the invariant -/

/-- A response is not read by the invariant. -/
theorem State.Inv.respond {s : State} (h : s.Inv) (r : Response) : (s.respond r).Inv :=
  ⟨h.lenLe, h.pixWf, h.pixLive, h.bytes, h.heldReset⟩

/-- The host's inputs are not read by the invariant. -/
theorem State.Inv.setInputs {s : State} (h : s.Inv) (l : List HostInput) : (s.setInputs l).Inv :=
  ⟨h.lenLe, h.pixWf, h.pixLive, h.bytes, h.heldReset⟩

/-- Releasing reset leaves nothing that the reset level asks for. -/
theorem State.Inv.release {s : State} (h : s.Inv) : (s.setInReset false).Inv :=
  ⟨h.lenLe, h.pixWf, h.pixLive, h.bytes, fun hreset => absurd hreset Bool.false_ne_true⟩

/-- A fresh allocation meets the invariant, provided that it is the reset one where reset is asserted (R32, R98). -/
theorem State.inv_of_allocated {s : State} {n : Half} (hlen : s.len = allocLen s.params n) (hpix : s.pix = [])
    (hheld : s.inReset = true → s.brt = 0 ∧ s.len = allocLen s.params (BitVec.ofFin s.params.initLen)) : s.Inv where
  lenLe := hlen ▸ allocLen_le s.params n
  pixWf := hpix ▸ Memory.wf_nil
  pixLive := by simp [hpix]
  bytes := fun _ a _ => by simp [hpix]
  heldReset := fun hreset => ⟨hpix, hheld hreset⟩

/-- The reset state meets the invariant at either level of the reset input (R32, R160). -/
theorem State.inv_resetBlock (s : State) : s.resetBlock.Inv :=
  State.inv_of_allocated s.resetBlock_len s.resetBlock_pix fun _ => ⟨s.resetBlock_brt, s.resetBlock_len⟩

/-- Settles O43: the state after power-up is a fresh allocation with the brightness unset. -/
theorem resetMeetsTheInvariant : Obligations.ResetMeetsTheInvariant := by
  unfold Obligations.ResetMeetsTheInvariant
  exact State.inv_of_allocated (State.powerUp_len _) (State.powerUp_pix _) fun _ => ⟨rfl, rfl⟩

/-- With reset released, a new pixel memory of live bytes within the requested brightness meets the invariant. -/
theorem State.Inv.setPix {s : State} (h : s.Inv) (hreset : s.inReset = false) {m : Memory} (hwf : Memory.wf m)
    (hlive : ∀ c ∈ m, c.1 < s.liveBytes)
    (hle : ∀ a < s.liveBytes, (Memory.read m a).toNat ≤ (requestedBrightness s.brt).toNat) : (s.setPix m).Inv where
  lenLe := h.lenLe
  pixWf := hwf
  pixLive := hlive
  bytes := (s.setPix m).bytesWithinBrightness_iff.2 hle
  heldReset := fun hr => absurd (hreset.symm.trans hr) Bool.false_ne_true

/-- With reset released, writing scaled colours to live bytes keeps the invariant (R30, R90). -/
theorem State.Inv.setPix_of_scaled {s : State} (h : s.Inv) (hreset : s.inReset = false) {m : Memory} {c : Color}
    (hwf : Memory.wf m) (hlive : ∀ d ∈ m, d.1 < s.liveBytes)
    (hread : ∀ a, Memory.read m a = laneOf (s.scaledColor c) a ∨ Memory.read m a = Memory.read s.pix a) :
    (s.setPix m).Inv := by
  refine h.setPix hreset hwf hlive fun a ha => ?_
  rcases hread a with hscaled | hkept
  · exact hscaled ▸ s.laneOf_scaledColor_le c a
  · exact hkept ▸ h.read_le ha

/-- The bytes of the entries below one up to `LEN` are live (R21, R22). -/
theorem State.entryAddr_le_liveBytes {s : State} {n : Nat} (h : n ≤ s.len.toNat) : entryAddr n ≤ s.liveBytes :=
  Nat.mul_le_mul_left 3 h

/-- A pixel write keeps the invariant: it lists bytes of a live entry (R30, R92). -/
theorem State.Inv.writePixel {s : State} (h : s.Inv) (hreset : s.inReset = false) (i : Half) (c : Color) :
    (s.writePixel i c).Inv := by
  have hread (a : Nat) : Memory.read (s.writePixel i c).pix a = laneOf (s.scaledColor c) a ∨
      Memory.read (s.writePixel i c).pix a = Memory.read s.pix a := by
    rw [State.read_writePixel_lane h.pixWf]
    exact ite_eq_or_eq _ _ _
  rcases s.writePixel_cases i c with ⟨hi, e⟩ | ⟨-, e⟩
  case inr => rwa [e]
  rw [e] at hread ⊢
  refine h.setPix_of_scaled hreset (Memory.writeEntry_wf h.pixWf _ _) (fun d hd => ?_) hread
  rcases Memory.mem_writeEntry hd with ⟨-, hd⟩ | hd
  · have hlive : entryAddr (i.toNat + 1) ≤ s.liveBytes := State.entryAddr_le_liveBytes (BitVec.lt_def.1 hi)
    exact (Nat.lt_succ_of_le hd).trans_le hlive
  · exact h.pixLive d hd

/-- A fill keeps the invariant: it lists bytes of live entries (R30, R94). -/
theorem State.Inv.fillPixels {s : State} (h : s.Inv) (hreset : s.inReset = false) (c : Color) (first count : Half) :
    (s.fillPixels c first count).Inv := by
  have hread (a : Nat) : Memory.read (s.fillPixels c first count).pix a = laneOf (s.scaledColor c) a ∨
      Memory.read (s.fillPixels c first count).pix a = Memory.read s.pix a := by
    rw [State.read_fillPixels_lane h.pixWf]
    exact ite_eq_or_eq _ _ _
  rcases s.fillPixels_cases c first count with ⟨hi, e⟩ | ⟨-, e⟩
  case inr => rwa [e]
  rw [e] at hread ⊢
  refine h.setPix_of_scaled hreset (Memory.writeEntries_wf h.pixWf _ _ _) (fun d hd => ?_) hread
  rcases Memory.mem_writeEntries hd with ⟨-, hd⟩ | hd
  · have hfirst : first.toNat < s.len.toNat := BitVec.lt_def.1 hi
    have hend := fillEnd_le_len first count s.len
    exact hd.trans_le (State.entryAddr_le_liveBytes (by omega))
  · exact h.pixLive d hd

/-- Clearing keeps the invariant: every live byte is 0 (R30, R96). -/
theorem State.Inv.clear {s : State} (h : s.Inv) (hreset : s.inReset = false) :
    (s.setPix (Memory.zeroBelow s.pix s.liveBytes)).Inv := by
  refine h.setPix hreset (Memory.zeroBelow_wf h.pixWf _) (fun d hd => h.pixLive d (List.mem_filter.1 hd).1)
    (fun a ha => ?_)
  rw [Memory.read_zeroBelow, if_pos ha]
  exact Nat.zero_le _

/-- A rescale keeps the invariant: it lists no byte anew, and brings every live byte within the new brightness (R30,
R125). -/
theorem State.Inv.rescale {s : State} (h : s.Inv) (hreset : s.inReset = false) (v : Byte) : (s.rescale v).Inv := by
  rcases s.rescale_cases v with ⟨-, e⟩ | ⟨hne, e⟩
  case inl => rwa [e]
  have hpix : (s.rescale v).pix = Memory.mapBelow (rescaleByte (rescaleRatio s.brt v)) s.liveBytes s.pix := by
    rw [e]
    rfl
  have hlive : (s.rescale v).liveBytes = s.liveBytes := by rw [e]; rfl
  constructor
  case lenLe => rw [s.rescale_len, s.rescale_params]; exact h.lenLe
  case pixWf => exact State.rescale_wf h.pixWf v
  case pixLive =>
    rw [hpix, hlive]
    intro d hd
    obtain ⟨d', hd', heq⟩ := Memory.mem_mapBelow hd
    exact heq ▸ h.pixLive d' hd'
  case bytes =>
    rw [State.bytesWithinBrightness_iff, hlive, s.rescale_brt, requestedBrightness_stored]
    intro a ha
    rw [State.read_rescale h.pixWf hne, if_pos ha, rescaleByte_toNat]
    exact (Nat.mod_le _ _).trans (shifted_rescale_le (h.read_le ha) v)
  case heldReset =>
    rw [s.rescale_inReset, hreset]
    exact fun hr => absurd hr Bool.false_ne_true

/-- Every command keeps the invariant while reset is released. -/
theorem State.Inv.exec {i : Instr} {s t : State} (h : s.Inv) (hreset : s.inReset = false) (hexec : exec i s = .next t) :
    t.Inv := by
  rw [eq_of_exec hexec]
  refine State.Inv.respond ?_ _
  cases i with
  | setpix i c => exact h.writePixel hreset i c
  | fill c first count => exact h.fillPixels hreset c first count
  | clear => exact h.clear hreset
  | resize n =>
    exact State.inv_of_allocated (s.allocate_len n) (s.allocate_pix n) fun hr =>
      absurd (hreset.symm.trans hr) Bool.false_ne_true
  | setbri v => exact h.rescale hreset v
  | pack | unpack | getpix | length | getbri | rdraw => exact h

/-- Settles O44: by the cases of a step; a command is served only while reset is released, so it may leave the reset
state. -/
theorem everyStepKeepsTheInvariant : Obligations.EveryStepKeepsTheInvariant := by
  unfold Obligations.EveryStepKeepsTheInvariant
  intro s t h hstep
  cases stepsTo_of_step hstep with
  | waits => exact h
  | drops => exact h.setInputs _
  | executes _ hreset _ hexec => exact State.Inv.exec (h.setInputs _) (by exact hreset) hexec
  | rejects => exact (h.setInputs _).respond _
  | resets => exact State.inv_resetBlock _
  | releases => exact (h.setInputs _).release
  | powers => exact State.inv_resetBlock _

end Sys2Proof.Machine

/-!
PROOFS. The derived laws of the pixel buffer (spec/41_pixel_buffer.md R92 to R101): the unset brightness, the empty buffer,
what a pixel set and got gives, and FILL as SETPIX on its entries; and of reset as an allocation (spec/10_state.md R32).
-/

namespace Sys2Proof.Machine

/-! ### The unset brightness and the empty buffer -/

/-- At the unset brightness the read inversion is the identity (R91). -/
theorem rscale_of_unset {s : Byte} (hs : s = 0) : (fun p => rscale p s) = fun p => p := by
  funext p
  exact if_pos hs

/-- Settles O28: at the unset brightness both commands read the entry as it is. -/
theorem rdrawEqualsGetpixWhileUnset : Obligations.RdrawEqualsGetpixWhileUnset := by
  unfold Obligations.RdrawEqualsGetpixWhileUnset
  intro i s hbrt
  rw [exec_rdraw, exec_getpix, rscale_of_unset hbrt]

/-- Settles O46: the allocation of `INIT_LEN` entries, with the unset brightness kept, is the state after power-up. -/
theorem resetIsResizeToInitLenFromUnset : Obligations.ResetIsResizeToInitLenFromUnset := by
  unfold Obligations.ResetIsResizeToInitLenFromUnset
  intro s hbrt
  have hinit : BitVec.ofNat 16 s.params.initLen.val = BitVec.ofFin s.params.initLen :=
    BitVec.eq_of_toNat_eq (Nat.mod_eq_of_lt s.params.initLen.isLt)
  exact ⟨_, exec_resize _ s, ⟨rfl, congrArg (allocLen s.params) hinit, hbrt⟩⟩

/-- No index is within an empty buffer. -/
theorem State.not_lt_len_of_len_zero {s : State} (hlen : s.len = 0) (i : Half) : ¬ i < s.len := by
  rw [hlen]
  exact BitVec.not_lt_zero

/-- A pixel read out of range is black (R93, R99). -/
theorem State.readPixel_of_not_lt {s : State} {i : Half} (h : ¬ i < s.len) (f : Byte → Byte) : s.readPixel f i = 0 :=
  if_neg h

/-- A response of `DATA` 0 is the all-0 response (R63). -/
theorem State.respond_data_zero (s : State) :
    s.respond (dataResponse 0) = { s with responses := s.responses ++ [0] } :=
  s.respond_empty

/-- With no live byte, a rescale is the write of `BRT` alone (R125). -/
theorem State.rescale_of_liveBytes_zero {s : State} (h : s.liveBytes = 0) (v : Byte) :
    s.rescale v = s.setBrt (storedBrightness v) := by
  rcases s.rescale_cases v with ⟨hbrt, e⟩ | ⟨-, e⟩
  · rw [e, hbrt]
    rfl
  · rw [e, h, Memory.mapBelow_zero]
    rfl

/-- Settles O29: every index is out of range, and no byte is live. -/
theorem zeroLengthBuffer : Obligations.ZeroLengthBuffer := by
  unfold Obligations.ZeroLengthBuffer
  intro s hlen
  have hout := State.not_lt_len_of_len_zero hlen
  have hlive : s.liveBytes = 0 := by rw [State.liveBytes, hlen]; rfl
  refine ⟨fun i c => ?setpix, fun c first count => ?fill, ?clear, fun i => ?getpix, fun i => ?rdraw, ?length,
    fun v => ?setbri⟩
  case setpix => rw [exec_setpix, State.writePixel_of_not_lt (hout i), State.respond_empty]
  case fill => rw [exec_fill, State.fillPixels_of_not_lt (hout first), State.respond_empty]
  case clear =>
    rw [exec_clear, hlive, Memory.zeroBelow_zero, State.respond_empty]
    rfl
  case getpix => rw [exec_getpix, State.readPixel_of_not_lt (hout i), State.respond_data_zero]
  case rdraw => rw [exec_rdraw, State.readPixel_of_not_lt (hout i), State.respond_data_zero]
  case length =>
    have hdata : s.len.setWidth 32 = (0 : Color) := by rw [hlen]; rfl
    rw [exec_length, hdata, State.respond_data_zero]
  case setbri =>
    rw [exec_setbri, State.rescale_of_liveBytes_zero hlive, State.respond_empty]
    rfl

/-! ### A pixel set and then got -/

/-- At the unset brightness the scaled colour is the colour's channels (R90). -/
theorem State.scaledColor_of_unset {s : State} (hbrt : s.brt = 0) (c : Color) : s.scaledColor c = unpackColor c := by
  rw [State.scaledColor, hbrt]
  rfl

/-- A pixel written in range and read through the identity gives the scaled colour, packed (R92, R99). -/
theorem State.readPixel_writePixel {s : State} (hw : Memory.wf s.pix) {i : Half} (h : i < s.len) (c : Color)
    (f : Byte → Byte) : (s.writePixel i c).readPixel f i = packColor (mapChannels f (s.scaledColor c)) := by
  rw [State.readPixel, if_pos (by rwa [s.writePixel_len]), State.readEntry_writePixel hw h]

/-- A colour through the unchanged channels is that colour. -/
theorem mapChannels_id (x : Rgb) : mapChannels (fun p => p) x = x := rfl

/-- The responses of a SETPIX and then a GETPIX of the same entry: 0, and what the written buffer reads as (R92, R93). -/
theorem responses_setpix_getpix {s t u : State} {i : Half} {c : Color} (hset : exec (.setpix i c) s = .next t)
    (hget : exec (.getpix i) t = .next u) :
    u.responses = s.responses ++
      [0, responseWord (dataResponse ((s.writePixel i c).readPixel (fun p => rscale p s.brt) i))] := by
  obtain rfl := Host.Outcome.next.inj hset
  obtain rfl := Host.Outcome.next.inj hget
  simp only [State.respond_responses, State.respond_brt, State.writePixel_brt, State.writePixel_responses,
    State.readPixel_respond, responseWord_empty, List.append_assoc]
  rfl

/-- What is read back, as a number: the write's floor and then the inversion's, neither of which drops a bit (R90, R91). -/
theorem rscale_wscale_toNat {s : Byte} {n : Nat} (hn : s.toNat = n) (hpos : n ≠ 0) (ch : Byte) :
    (rscale (wscale ch s) s).toNat = ch.toNat * n / 2 ^ 8 * 2 ^ 8 / n := by
  have hs : s ≠ 0 := fun h => hpos (hn ▸ congrArg BitVec.toNat h)
  have hlt : ch.toNat * n / 2 ^ 8 * 2 ^ 8 / n < 2 ^ 8 := by
    refine Nat.div_lt_of_lt_mul ((Nat.div_mul_le_self _ _).trans_lt ?_)
    rw [Nat.mul_comm]
    exact Nat.mul_lt_mul_of_pos_left ch.isLt (Nat.pos_of_ne_zero hpos)
  rw [rscale_toNat hs, wscale_toNat hs, hn, Nat.mod_eq_of_lt hlt]

/-- A channel is never read back greater than it was written (R101). -/
theorem rscale_wscale_le {s : Byte} (hs : s ≠ 0) (ch : Byte) : (rscale (wscale ch s) s).toNat ≤ ch.toNat := by
  rw [rscale_wscale_toNat rfl fun h => hs (BitVec.eq_of_toNat_eq h)]
  refine Nat.div_le_of_le_mul ?_
  rw [Nat.mul_comm s.toNat]
  exact Nat.div_mul_le_self _ _

/-- The greatest loss of a write and a read at four brightnesses: bounded for every channel, and attained (R101). -/
theorem greatest_losses :
    ∀ sl ∈ [((1 : Byte), 255), (2, 127), (129, 2), (255, 1)],
      (∀ ch : Byte, ch.toNat - (rscale (wscale ch sl.1) sl.1).toNat ≤ sl.2) ∧
      ∃ ch : Byte, ch.toNat - (rscale (wscale ch sl.1) sl.1).toNat = sl.2 := by
  simp only [List.forall_mem_cons]
  refine ⟨⟨fun ch => ?_, 255, by decide⟩, ⟨fun ch => ?_, 127, by decide⟩, ⟨fun ch => ?_, 3, by decide⟩,
    ⟨fun ch => ?_, 1, by decide⟩, by simp⟩
  · have hread := rscale_wscale_toNat (s := 1) (n := 1) rfl (by decide) ch
    omega
  · have hread := rscale_wscale_toNat (s := 2) (n := 2) rfl (by decide) ch
    omega
  · have hread := rscale_wscale_toNat (s := 129) (n := 129) rfl (by decide) ch
    omega
  · have hread := rscale_wscale_toNat (s := 255) (n := 255) rfl (by decide) ch
    omega

/-- Settles O30: at the unset brightness neither scale changes a byte, and at a set one both round down. -/
theorem setThenGetLaws : Obligations.SetThenGetLaws := by
  unfold Obligations.SetThenGetLaws
  refine ⟨fun s i c hw hbrt h => ?unset, fun ch s hs => rscale_wscale_le hs ch, greatest_losses, ?decay,
    fun s i c h => ?out⟩
  case unset =>
    refine ⟨_, _, exec_setpix i c s, exec_getpix i _, ?_⟩
    rw [responses_setpix_getpix (exec_setpix i c s) (exec_getpix i _), rscale_of_unset hbrt,
      State.readPixel_writePixel hw h, mapChannels_id, State.scaledColor_of_unset hbrt, packColor_unpackColor,
      responseWord_data]
  case decay => decide
  case out =>
    refine ⟨_, _, exec_setpix i c s, ?_, exec_getpix i _, ?_⟩
    · rw [State.writePixel_of_not_lt h]
      exact ⟨rfl, rfl, rfl⟩
    · rw [responses_setpix_getpix (exec_setpix i c s) (exec_getpix i _), State.writePixel_of_not_lt h,
        State.readPixel_of_not_lt h]
      exact congrArg (fun r => s.responses ++ [0, r]) responseWord_empty

/-! ### FILL as SETPIX on its entries -/

/-- SETPIX of one colour on a list of entries: exactly the bytes of the listed entries below `LEN` get the scaled colour,
whatever the order. -/
theorem execAll_setpix (c : Color) (l : List Half) :
    ∀ s : State, Memory.wf s.pix →
      ∃ u, execAll (l.map fun i => .setpix i c) s = some u ∧ Memory.wf u.pix ∧ u.len = s.len ∧ u.brt = s.brt ∧
        ∀ a, Memory.read u.pix a =
          if a / 3 < s.len.toNat ∧ a / 3 ∈ l.map BitVec.toNat then laneOf (s.scaledColor c) a
          else Memory.read s.pix a := by
  induction l with
  | nil => exact fun s hw => ⟨s, rfl, hw, rfl, rfl, fun a => by simp⟩
  | cons i l ih =>
    intro s hw
    obtain ⟨u, hu, huw, hulen, hubrt, huread⟩ :=
      ih ((s.writePixel i c).respond emptyResponse) (State.writePixel_wf hw i c)
    refine ⟨u, hu, huw, hulen.trans (s.writePixel_len i c), hubrt.trans (s.writePixel_brt i c), fun a => ?_⟩
    have hcolor : ((s.writePixel i c).respond emptyResponse).scaledColor c = s.scaledColor c :=
      State.scaledColor_congr (s.writePixel_brt i c) c
    rw [huread a, hcolor, State.respond_len, State.respond_pix, s.writePixel_len, State.read_writePixel_lane hw]
    simp only [List.map_cons, List.mem_cons]
    split_ifs <;> first | rfl | tauto

/-- The indices of FILL's entries, in any order, are the numbers of its clipped range (R94). -/
theorem mem_fillIndices_iff {first count len : Half} {l : List Half}
    (hperm : l.Perm ((List.range' first.toNat (fillEnd first count len - first.toNat)).map (BitVec.ofNat 16))) (k : Nat) :
    k ∈ l.map BitVec.toNat ↔ first.toNat ≤ k ∧ k < fillEnd first count len := by
  have hend := fillEnd_le_len first count len
  have hlen := len.isLt
  rw [(hperm.map BitVec.toNat).mem_iff, List.map_map, List.mem_map]
  constructor
  case mp =>
    rintro ⟨j, hj, rfl⟩
    rw [List.mem_range'_1] at hj
    have hsmall : (BitVec.ofNat 16 j).toNat = j := Nat.mod_eq_of_lt (by omega)
    rw [Function.comp_apply, hsmall]
    omega
  case mpr =>
    rintro ⟨hfirst, hlt⟩
    exact ⟨k, List.mem_range'_1.2 (by omega), Nat.mod_eq_of_lt (by omega)⟩

/-- From a start in range, the count 0 and the count `LEN - first` end at `LEN` (R94). -/
theorem fillEnd_zero_eq {first len : Half} (h : first < len) :
    fillEnd first 0 len = fillEnd first (len - first) len := by
  have hcount : (len - first).toNat = len.toNat - first.toNat := BitVec.toNat_sub_of_le (BitVec.le_of_lt h)
  rw [BitVec.lt_def] at h
  have hne : len - first ≠ 0 := fun h0 => by
    have hzero : (len - first).toNat = 0 := congrArg BitVec.toNat h0
    omega
  rw [fillEnd, if_pos rfl, fillEnd, if_neg hne, hcount]
  omega

/-- Settles O23: FILL and the SETPIXes write the same bytes, and a canonical memory is given by its bytes. -/
theorem fillLaws : Obligations.FillLaws := by
  unfold Obligations.FillLaws
  refine ⟨fun c first s h => ?_, fun c first count s h => ?_, fun c first count s l hw h hperm => ?_, fun c s hw => ?_⟩
  · rw [exec_fill, exec_fill, State.fillPixels, State.fillPixels, fillEnd_zero_eq h]
  · rw [exec_fill, State.fillPixels_of_not_lt h, State.respond_empty]
  · obtain ⟨u, hu, huw, hulen, hubrt, huread⟩ := execAll_setpix c l s hw
    refine ⟨_, u, exec_fill c first count s, hu, ?_, ?_, ?_⟩
    · refine Memory.eq_of_read (State.fillPixels_wf hw c first count) huw fun a => ?_
      have hend := fillEnd_le_len first count s.len
      rw [State.respond_pix, huread, State.read_fillPixels_lane hw]
      refine if_congr ?_ rfl rfl
      rw [mem_fillIndices_iff hperm]
      omega
    · exact (s.fillPixels_len c first count).trans hulen.symm
    · exact (s.fillPixels_brt c first count).trans hubrt.symm
  · refine ⟨_, exec_fill c 0 0 s, fun i hi => ?_⟩
    exact State.readEntry_fillPixels hw c (Nat.zero_le i) hi

end Sys2Proof.Machine

/-!
PROOFS. The derived laws of the rescale (spec/42_brightness.md R130 to R132), and two laws of every command: issued twice
it is issued once (spec/20_memory.md R48), and it never reads a dead byte (spec/10_state.md R22).
-/

namespace Sys2Proof.Machine

/-! ### Responses commute with effects -/

/-- A pixel write does not read the responses. -/
theorem State.writePixel_respond (s : State) (r : Response) (i : Half) (c : Color) :
    (s.respond r).writePixel i c = (s.writePixel i c).respond r := by
  rcases s.writePixel_cases i c with ⟨h, e⟩ | ⟨h, e⟩ <;> rw [e]
  · exact if_pos h
  · exact if_neg h

/-- A fill does not read the responses. -/
theorem State.fillPixels_respond (s : State) (r : Response) (c : Color) (first count : Half) :
    (s.respond r).fillPixels c first count = (s.fillPixels c first count).respond r := by
  rcases s.fillPixels_cases c first count with ⟨h, e⟩ | ⟨h, e⟩ <;> rw [e]
  · exact if_pos h
  · exact if_neg h

/-- A rescale does not read the responses. -/
theorem State.rescale_respond (s : State) (r : Response) (v : Byte) :
    (s.respond r).rescale v = (s.rescale v).respond r := by
  rcases s.rescale_cases v with ⟨h, e⟩ | ⟨h, e⟩ <;> rw [e]
  · exact if_pos h
  · exact if_neg h

/-- The effect of a command does not read the responses. -/
theorem State.effect_respond (s : State) (r : Response) (i : Instr) :
    (s.respond r).effect i = (s.effect i).respond r := by
  cases i with
  | setpix i c => exact s.writePixel_respond r i c
  | fill c first count => exact s.fillPixels_respond r c first count
  | setbri v => exact s.rescale_respond r v
  | clear | resize => rfl
  | pack | unpack | getpix | length | getbri | rdraw => rfl

/-- The effect of a command returns no response. -/
theorem State.effect_responses (s : State) (i : Instr) : (s.effect i).responses = s.responses := by
  cases i with
  | setpix i c => exact s.writePixel_responses i c
  | fill c first count => exact s.fillPixels_responses c first count
  | setbri v => exact s.rescale_responses v
  | clear | resize => rfl
  | pack | unpack | getpix | length | getbri | rdraw => rfl

/-! ### The rescale of one live byte -/

/-- SETBRI of another brightness on a live byte: the byte it leaves, and what the next SETBRI needs to know (R125). -/
theorem exec_setbri_live_byte {s : State} {v p q : Byte} {a : Nat} (hw : Memory.wf s.pix) (hne : v + 1 ≠ s.brt)
    (ha : a < s.liveBytes) (hp : Memory.read s.pix a = p) (hq : rescaleByte (rescaleRatio s.brt v) p = q) :
    ∃ t, exec (.setbri v) s = .next t ∧ Memory.read t.pix a = q ∧ Memory.wf t.pix ∧ t.brt = v + 1 ∧
      a < t.liveBytes := by
  refine ⟨_, exec_setbri v s, ?_, State.rescale_wf hw v, s.rescale_brt v, ?_⟩
  · rw [State.respond_pix, State.read_rescale hw hne, if_pos ha, hp, hq]
  · rwa [State.liveBytes, State.respond_len, s.rescale_len]

/-- Settles O38: four rescales of one byte, each by the ratio of the brightness the one before left. -/
theorem rescaleLossCompounds : Obligations.RescaleLossCompounds := by
  unfold Obligations.RescaleLossCompounds
  intro s a hw hbrt ha hp
  obtain ⟨t₁, h₁, hp₁, hw₁, hbrt₁, ha₁⟩ :=
    exec_setbri_live_byte (v := 99) (q := 78) hw (by rw [hbrt]; decide) ha hp (by rw [hbrt]; decide)
  obtain ⟨t₂, h₂, hp₂, hw₂, hbrt₂, ha₂⟩ :=
    exec_setbri_live_byte (v := 199) (q := 157) hw₁ (by rw [hbrt₁]; decide) ha₁ hp₁ (by rw [hbrt₁]; decide)
  obtain ⟨t₃, h₃, hp₃, hw₃, hbrt₃, ha₃⟩ :=
    exec_setbri_live_byte (v := 99) (q := 78) hw₂ (by rw [hbrt₂]; decide) ha₂ hp₂ (by rw [hbrt₂]; decide)
  obtain ⟨t₄, h₄, hp₄, -, hbrt₄, -⟩ :=
    exec_setbri_live_byte (v := 255) (q := 201) hw₃ (by rw [hbrt₃]; decide) ha₃ hp₃ (by rw [hbrt₃]; decide)
  exact ⟨t₁, t₂, t₃, t₄, h₁, hp₁, h₂, hp₂, h₃, hp₃, h₄, hp₄, hbrt₄⟩

/-! ### The rescale from the unset brightness -/

/-- From the unset brightness the ratio is the new stored brightness itself (R123, R132). -/
theorem rescaleRatio_unset_toNat {v : Byte} (hv : v ≠ 255) :
    (rescaleRatio 0 v).toNat = (storedBrightness v).toNat := by
  have hold : (requestedBrightness 0).toNat = 255 := rfl
  have hne : v.toNat ≠ 255 := fun h => hv (BitVec.eq_of_toNat_eq h)
  rw [rescaleRatio_toNat, hold, if_neg (by decide), if_neg hv, storedBrightness_toNat]
  omega

/-- The stored form of any requested brightness but 255 is a set one (R120). -/
theorem storedBrightness_ne_zero {v : Byte} (hv : v ≠ 255) : storedBrightness v ≠ 0 := fun h =>
  hv ((storedBrightness_eq_zero_iff v).1 h)

/-- From the unset brightness the rescale of a byte is its write scale (R132). -/
theorem rescaleByte_unset {v : Byte} (hv : v ≠ 255) (p : Byte) :
    rescaleByte (rescaleRatio 0 v) p = wscale p (storedBrightness v) := by
  rw [rescaleByte, rescaleRatio_unset_toNat hv, wscale, if_neg (storedBrightness_ne_zero hv)]

/-- The bytes of a rescale from the unset brightness: every live byte by the write scale (R125, R132). -/
theorem State.read_rescale_unset {s : State} (hw : Memory.wf s.pix) (hbrt : s.brt = 0) {v : Byte} (hv : v ≠ 255)
    (a : Nat) :
    Memory.read (s.rescale v).pix a =
      if a < s.liveBytes then wscale (Memory.read s.pix a) (storedBrightness v) else Memory.read s.pix a := by
  rw [State.read_rescale hw (hbrt ▸ storedBrightness_ne_zero hv), hbrt, rescaleByte_unset hv]

/-- The function of every channel is the function of the channel a byte holds. -/
theorem laneOf_mapChannels (f : Byte → Byte) (x : Rgb) (a : Nat) : laneOf (mapChannels f x) a = f (laneOf x a) := by
  unfold laneOf mapChannels
  split_ifs <;> rfl

/-- From the unset brightness a pixel write and then a rescale leave the bytes that a rescale and then a pixel write
leave: the write scale reaches every live byte once (R132). -/
theorem State.rescale_writePixel_pix {s : State} (hw : Memory.wf s.pix) (hbrt : s.brt = 0) (i : Half) (c : Color)
    (v : Byte) : ((s.writePixel i c).rescale v).pix = ((s.rescale v).writePixel i c).pix := by
  have hww := State.writePixel_wf hw i c
  have hrw := State.rescale_wf hw v
  have hwbrt : (s.writePixel i c).brt = 0 := (s.writePixel_brt i c).trans hbrt
  by_cases hv : v = 255
  · have hstored : storedBrightness v = 0 := (storedBrightness_eq_zero_iff v).2 hv
    rw [State.rescale_of_stored_eq (hstored.trans hwbrt.symm), State.rescale_of_stored_eq (hstored.trans hbrt.symm)]
  · have hlive : (s.writePixel i c).liveBytes = s.liveBytes := by
      rw [State.liveBytes, s.writePixel_len, State.liveBytes]
    have hcolor : (s.rescale v).scaledColor c =
        mapChannels (fun ch => wscale ch (storedBrightness v)) (s.scaledColor c) := by
      rw [State.scaledColor_of_unset hbrt, State.scaledColor, s.rescale_brt]
    have hdiv (a : Nat) : a / 3 < s.len.toNat → a < s.liveBytes := by
      unfold State.liveBytes
      omega
    refine Memory.eq_of_read (State.rescale_wf hww v) (State.writePixel_wf hrw i c) fun a => ?_
    rw [State.read_rescale_unset hww hwbrt hv, State.read_writePixel_lane hw, State.read_writePixel_lane hrw,
      State.read_rescale_unset hw hbrt hv, hlive, s.rescale_len, hcolor, laneOf_mapChannels]
    by_cases hentry : a / 3 < s.len.toNat ∧ a / 3 = i.toNat
    · rw [if_pos hentry, if_pos hentry, if_pos (hdiv a hentry.left)]
    · rw [if_neg hentry, if_neg hentry]

/-- From the unset brightness a pixel write and a rescale commute (R132). -/
theorem State.sameArch_rescale_writePixel {s : State} (hw : Memory.wf s.pix) (hbrt : s.brt = 0) (i : Half) (c : Color)
    (v : Byte) : SameArch ((s.writePixel i c).rescale v) ((s.rescale v).writePixel i c) where
  pix := State.rescale_writePixel_pix hw hbrt i c v
  len := by rw [State.rescale_len, s.writePixel_len, State.writePixel_len, s.rescale_len]
  brt := by rw [State.rescale_brt, State.writePixel_brt, s.rescale_brt]

/-- Two commands in order are their effects in order, and then their responses. -/
theorem execAll_two (i j : Instr) (s : State) :
    execAll [i, j] s =
      some ((((s.effect i).effect j).respond (s.answer i)).respond (((s.effect i).respond (s.answer i)).answer j)) := by
  rw [execAll, exec_eq]
  dsimp only
  rw [execAll, exec_eq, State.effect_respond]
  rfl

/-- Responses are no architectural state (R20). -/
theorem SameArch.responds {s t : State} (h : SameArch s t) (q r : Response) : SameArch (s.respond q) (t.respond r) :=
  ⟨h.pix, h.len, h.brt⟩

/-- Settles O39: from the unset brightness the ratio is the new brightness, so both orders scale each live byte once. -/
theorem rescaleFromUnsetIsPremultiplication : Obligations.RescaleFromUnsetIsPremultiplication := by
  unfold Obligations.RescaleFromUnsetIsPremultiplication
  refine ⟨fun p v hv => rescaleByte_unset hv p, fun s i c v hw hbrt => ?_, by decide⟩
  have h : SameArch ((s.effect (.setpix i c)).effect (.setbri v)) ((s.effect (.setbri v)).effect (.setpix i c)) :=
    State.sameArch_rescale_writePixel hw hbrt i c v
  exact ⟨_, _, execAll_two _ _ s, execAll_two _ _ s, (h.responds _ _).responds _ _⟩

/-! ### Commands issued twice -/

/-- A second write of the same pixel changes nothing (R48, R92). -/
theorem State.writePixel_writePixel_pix {s : State} (hw : Memory.wf s.pix) (i : Half) (c : Color) :
    ((s.writePixel i c).writePixel i c).pix = (s.writePixel i c).pix := by
  have hww := State.writePixel_wf hw i c
  refine Memory.eq_of_read (State.writePixel_wf hww i c) hww fun a => ?_
  rw [State.read_writePixel_lane hww, State.read_writePixel_lane hw, s.writePixel_len,
    State.scaledColor_congr (s.writePixel_brt i c)]
  split_ifs <;> rfl

/-- A second fill of the same range changes nothing (R48, R94). -/
theorem State.fillPixels_fillPixels_pix {s : State} (hw : Memory.wf s.pix) (c : Color) (first count : Half) :
    ((s.fillPixels c first count).fillPixels c first count).pix = (s.fillPixels c first count).pix := by
  have hfw := State.fillPixels_wf hw c first count
  refine Memory.eq_of_read (State.fillPixels_wf hfw c first count) hfw fun a => ?_
  rw [State.read_fillPixels_lane hfw, State.read_fillPixels_lane hw, s.fillPixels_len,
    State.scaledColor_congr (s.fillPixels_brt c first count)]
  split_ifs <;> rfl

/-- Zeroing the same bytes twice is zeroing them once (R48, R96). -/
theorem Memory.zeroBelow_zeroBelow (m : Memory) (bound : Nat) :
    Memory.zeroBelow (Memory.zeroBelow m bound) bound = Memory.zeroBelow m bound := by
  simp [Memory.zeroBelow]

/-- A command's effect, twice in a row, leaves the architectural state that it left once (R48). -/
theorem State.sameArch_effect_effect {s : State} (hw : Memory.wf s.pix) (i : Instr) :
    SameArch (s.effect i) ((s.effect i).effect i) := by
  cases i with
  | setpix i c =>
    exact ⟨(State.writePixel_writePixel_pix hw i c).symm, (State.writePixel_len _ i c).symm,
      (State.writePixel_brt _ i c).symm⟩
  | fill c first count =>
    exact ⟨(State.fillPixels_fillPixels_pix hw c first count).symm, (State.fillPixels_len _ c first count).symm,
      (State.fillPixels_brt _ c first count).symm⟩
  | clear => exact ⟨(Memory.zeroBelow_zeroBelow _ _).symm, rfl, rfl⟩
  | resize n => exact ⟨rfl, rfl, rfl⟩
  | setbri v => exact (State.sameArch_rescale_iff _ v).2 (s.rescale_brt v).symm
  | pack | unpack | getpix | length | getbri | rdraw => exact ⟨rfl, rfl, rfl⟩

/-- A reading command leaves the architectural state as it is (R48). -/
theorem exec_of_effect_eq {i : Instr} {s : State} (h : s.effect i = s) : ∃ t, exec i s = .next t ∧ SameArch s t := by
  refine ⟨_, exec_eq i s, ?_⟩
  rw [h]
  exact ⟨rfl, rfl, rfl⟩

/-- Settles O40: a reading command has no effect, and the effect of every command is idempotent. -/
theorem commandsAreIdempotent : Obligations.CommandsAreIdempotent := by
  unfold Obligations.CommandsAreIdempotent
  refine ⟨fun i s hread => ?_, fun i s hw => ⟨_, _, exec_eq i s, exec_eq i _, ?_⟩⟩
  · rcases hread with ⟨r, g, b, rfl⟩ | ⟨c, rfl⟩ | ⟨n, rfl⟩ | ⟨n, rfl⟩ | rfl | rfl
    all_goals exact exec_of_effect_eq rfl
  · rw [State.effect_respond]
    exact (SameArch.respond_iff _).2 ((State.sameArch_effect_effect hw i).responds _ _)

/-! ### Dead bytes -/

/-- States of the same live bytes have the same number of them. -/
theorem SameLive.liveBytes {s t : State} (h : SameLive s t) : s.liveBytes = t.liveBytes := by
  rw [State.liveBytes, h.len, State.liveBytes]

/-- A pixel read gives the same in states of the same live bytes (R22, R93, R99). -/
theorem SameLive.readPixel {s t : State} (h : SameLive s t) (f : Byte → Byte) (i : Half) :
    s.readPixel f i = t.readPixel f i := by
  by_cases hi : i < s.len
  · have hread (k : Nat) (hk : k < 3) :
        Memory.read s.pix (entryAddr i.toNat + k) = Memory.read t.pix (entryAddr i.toNat + k) := by
      refine h.bytes _ ?_
      have hlt : i.toNat < s.len.toNat := BitVec.lt_def.1 hi
      unfold entryAddr State.liveBytes
      omega
    have hentry : Memory.readEntry s.pix i.toNat = Memory.readEntry t.pix i.toNat :=
      Rgb.ext (hread 0 (by decide)) (hread 1 (by decide)) (hread 2 (by decide))
    rw [State.readPixel, if_pos hi, State.readPixel, if_pos (h.len ▸ hi), hentry]
  · rw [State.readPixel_of_not_lt hi, State.readPixel_of_not_lt (h.len ▸ hi)]

/-- Every command responds the same in states of the same live bytes (R22). -/
theorem SameLive.answer {s t : State} (h : SameLive s t) (i : Instr) : s.answer i = t.answer i := by
  cases i with
  | getpix n =>
    have hread := h.readPixel (fun p => rscale p s.brt) n
    rw [h.brt] at hread
    change dataResponse (s.readPixel (fun p => rscale p s.brt) n) = _
    rw [h.brt]
    exact congrArg dataResponse hread
  | rdraw n => exact congrArg dataResponse (h.readPixel (fun p => p) n)
  | length => exact congrArg (fun l : Half => dataResponse (l.setWidth 32)) h.len
  | getbri => exact congrArg (fun b => dataResponse ((requestedBrightness b).setWidth 32)) h.brt
  | pack | unpack => rfl
  | setpix | fill | clear | resize | setbri => rfl

/-- A pixel write leaves states of the same live bytes (R22, R92). -/
theorem SameLive.writePixel {s t : State} (h : SameLive s t) (hs : Memory.wf s.pix) (ht : Memory.wf t.pix) (i : Half)
    (c : Color) : SameLive (s.writePixel i c) (t.writePixel i c) where
  params := by rw [s.writePixel_params, t.writePixel_params, h.params]
  len := by rw [s.writePixel_len, t.writePixel_len, h.len]
  brt := by rw [s.writePixel_brt, t.writePixel_brt, h.brt]
  bytes := by
    intro a ha
    rw [State.liveBytes, s.writePixel_len] at ha
    rw [State.read_writePixel_lane hs, State.read_writePixel_lane ht, State.scaledColor_congr h.brt, h.bytes a ha, h.len]

/-- A fill leaves states of the same live bytes (R22, R94). -/
theorem SameLive.fillPixels {s t : State} (h : SameLive s t) (hs : Memory.wf s.pix) (ht : Memory.wf t.pix) (c : Color)
    (first count : Half) : SameLive (s.fillPixels c first count) (t.fillPixels c first count) where
  params := by rw [s.fillPixels_params, t.fillPixels_params, h.params]
  len := by rw [s.fillPixels_len, t.fillPixels_len, h.len]
  brt := by rw [s.fillPixels_brt, t.fillPixels_brt, h.brt]
  bytes := by
    intro a ha
    rw [State.liveBytes, s.fillPixels_len] at ha
    rw [State.read_fillPixels_lane hs, State.read_fillPixels_lane ht, State.scaledColor_congr h.brt, h.bytes a ha, h.len]

/-- Clearing leaves states of the same live bytes (R22, R96). -/
theorem SameLive.clear {s t : State} (h : SameLive s t) :
    SameLive (s.setPix (Memory.zeroBelow s.pix s.liveBytes)) (t.setPix (Memory.zeroBelow t.pix t.liveBytes)) where
  params := h.params
  len := h.len
  brt := h.brt
  bytes := by
    intro a ha
    rw [State.liveBytes_setPix] at ha
    rw [State.read_clear, State.read_clear, if_pos ha, if_pos (h.liveBytes ▸ ha)]

/-- An allocation leaves states of the same live bytes, all 0 (R22, R98). -/
theorem SameLive.allocate {s t : State} (h : SameLive s t) (n : Half) : SameLive (s.allocate n) (t.allocate n) where
  params := h.params
  len := by rw [s.allocate_len, t.allocate_len, h.params]
  brt := h.brt
  bytes := fun _ _ => rfl

/-- A rescale leaves states of the same live bytes: it reads live bytes and `BRT` alone (R22, R125). -/
theorem SameLive.rescale {s t : State} (h : SameLive s t) (hs : Memory.wf s.pix) (ht : Memory.wf t.pix) (v : Byte) :
    SameLive (s.rescale v) (t.rescale v) where
  params := by rw [s.rescale_params, t.rescale_params, h.params]
  len := by rw [s.rescale_len, t.rescale_len, h.len]
  brt := by rw [s.rescale_brt, t.rescale_brt]
  bytes := by
    intro a ha
    rw [State.liveBytes, s.rescale_len] at ha
    by_cases hv : storedBrightness v = s.brt
    · rw [State.rescale_of_stored_eq hv, State.rescale_of_stored_eq (hv.trans h.brt), h.bytes a ha]
    · rw [State.read_rescale hs hv, State.read_rescale ht (h.brt ▸ hv), ← h.liveBytes, ← h.brt, h.bytes a ha]

/-- The effect of every command leaves states of the same live bytes (R22). -/
theorem SameLive.effect {s t : State} (h : SameLive s t) (hs : Memory.wf s.pix) (ht : Memory.wf t.pix) (i : Instr) :
    SameLive (s.effect i) (t.effect i) := by
  cases i with
  | setpix i c => exact h.writePixel hs ht i c
  | fill c first count => exact h.fillPixels hs ht c first count
  | clear => exact h.clear
  | resize n => exact h.allocate n
  | setbri v => exact h.rescale hs ht v
  | pack | unpack | getpix | length | getbri | rdraw => exact h

/-- Settles O42: response and effect of every command are read off the parameters, `LEN`, `BRT` and the live bytes. -/
theorem deadBytesAreNeverObserved : Obligations.DeadBytesAreNeverObserved := by
  unfold Obligations.DeadBytesAreNeverObserved
  intro i s t hs ht h
  obtain ⟨hparams, hlen, hbrt, hbytes⟩ := h.effect hs ht i
  refine ⟨_, _, responseWord (s.answer i), exec_eq i s, exec_eq i t, ?_, ?_, ⟨hparams, hlen, hbrt, hbytes⟩⟩
  · rw [State.respond_responses, s.effect_responses]
  · rw [State.respond_responses, t.effect_responses, h.answer]

end Sys2Proof.Machine
